-- ==== Sys2Proof/Word.lean ====
section
/-! DEFINITION. The word types of the block: bytes and 16-bit words (spec/00_scope.md R12, R13). -/

namespace Sys2Proof

/-- A stream byte, flags byte, status byte, length byte: the 8-bit datum of the block (R12, R58). -/
abbrev Byte := BitVec 8

/-- A command word, a CRC value, a table entry: no value wider than 16 bits exists (R55, R81). -/
abbrev Word := BitVec 16

end Sys2Proof
end

