-- ==== Sys2Proof/Config.lean ====
section
/-! DEFINITION. What is fixed when the block is built: the constants of spec/00_scope.md R10 and R11 and
the two named build-time parameters `P_CNV_OVERWRITE` and `P_CKSUM_ENABLE_SOURCE`. -/

namespace Sys2Proof.Config

/-- `CRC_POLY` (R10). -/
def crcPoly : Word := 0x1021

/-- `CRC_INIT`, the seed of every checksum computation and the reset value of `CRC` (R10, R33). -/
def crcInit : Word := 0x1D0F

/-- `SYNC`, the preamble `55 55 42 42` in wire order (R10). -/
def sync : List Byte := [0x55, 0x55, 0x42, 0x42]

/-- `HDR_LEN`: preamble 4, status 1, command 1, length 1 (R10). -/
def hdrLen : Nat := 7

/-- `TRAILER_LEN` (R10). -/
def trailerLen : Nat := 2

/-- `OVERHEAD = HDR_LEN + TRAILER_LEN` (R10). -/
def overhead : Nat := 9

/-- `MAX_PAYLOAD` (R10). -/
def maxPayload : Nat := 255

/-- `MAX_FRAME = OVERHEAD + MAX_PAYLOAD` (R10). -/
def maxFrame : Nat := 264

/-- `ACC_DEPTH`, the entries of `SD_ACC` (R11, D13). -/
def accDepth : Nat := 264

/-- `OPND_MAX`, the longest byte-sequence operand the port carries (R11, D23). -/
def opndMax : Nat := 264

/-- The values of `P_CNV_OVERWRITE` (R11, R130, D9): where the `checksum_not_valid` overwrite stands. -/
inductive CnvOverwrite where
  /-- `ALL`: the status byte becomes exactly `0x04`. -/
  | all
  /-- `IN_ORDER`: the replacement happens between bit 3 and bit 1. -/
  | inOrder
  deriving DecidableEq, Repr

/-- The values of `P_CKSUM_ENABLE_SOURCE` (R11, R136, D10): what "a checksum is included" tests. -/
inductive CksumSource where
  /-- `FLAG`: `includes_checksum` or the force bit. -/
  | flag
  /-- `STATUS_BIT`: bit 7 of the packed status byte. -/
  | statusBit
  deriving DecidableEq, Repr

/-- The two parameters, "fixed when the block is built, not writable" (R25). A model takes them as
arguments (R11, D9, D10): `State` carries them and no step writes them (log entry 7). -/
structure Params where
  cnvOverwrite : CnvOverwrite
  cksumSource : CksumSource
  deriving DecidableEq, Repr

/-- The spec's defaults `ALL` and `FLAG` (R11). -/
def Params.spec : Params := { cnvOverwrite := .all, cksumSource := .flag }

end Sys2Proof.Config
end

