-- ==== Sys2Proof/Syntax.lean ====
section
/-! DEFINITION. The commands of the port as syntax: one constructor of `Instr` per row of
spec/opcode_table.json, and the operand that travels with a command word (spec/30_encoding.md R70, R73). -/

namespace Sys2Proof

/-- The `FRAME f` operand of the port: `command`, a flags byte, `len` and `payload` (R70).
The operand carries no `parsed_checksum_valid`, which ENCODE would ignore (R36, R138; log entry 14). -/
structure FrameOperand where
  command : Byte
  flags : Byte
  len : Byte
  payload : List Byte
  deriving DecidableEq, Repr

/-- The operand of a command: `NONE`, `BYTES s` or `FRAME f` (R70). -/
inductive Operand where
  | none
  | bytes (s : List Byte)
  | frame (f : FrameOperand)
  deriving DecidableEq, Repr

/-- The three operand kinds that rule R73 names in its `operand` column. -/
inductive OperandKind where
  | none
  | bytes
  | frame
  deriving DecidableEq, Repr

/-- The kind of an operand (R70). -/
def Operand.kind : Operand → OperandKind
  | .none => .none
  | .bytes _ => .bytes
  | .frame _ => .frame

/-- The thirteen commands (R73, spec/opcode_table.json), in the table's order. -/
inductive Instr where
  /-- `SD.PROCESS b`: one stream byte to the automaton (R172). -/
  | sdProcess (b : Byte)
  /-- `SD.RESET`: abandons the in-progress frame (R190). -/
  | sdReset
  /-- `SD.STATE`: reads the automaton's registers (R193). -/
  | sdState
  /-- `CRC.INIT`: seeds the `CRC` register (R105). -/
  | crcInit
  /-- `CRC.UPDATE b`: folds one byte into `CRC` (R107). -/
  | crcUpdate (b : Byte)
  /-- `CRC.READ`: returns `CRC` (R108). -/
  | crcRead
  /-- `CRC.TABLE i`: reads one entry of the CRC table (R106). -/
  | crcTable (i : Byte)
  /-- `CHECKSUM [s]` (R109). -/
  | checksum (s : List Byte)
  /-- `VERIFY [buf]` (R112). -/
  | verify (buf : List Byte)
  /-- `PACK.STATUS f` and, with the force bit, `PACK.STATUS.F f` (R133). -/
  | packStatus (force : Bool) (f : Byte)
  /-- `UNPACK.STATUS s` (R134). -/
  | unpackStatus (s : Byte)
  /-- `ENCODE fr` and, with the force bit, `ENCODE.F fr` (R138). -/
  | encode (force : Bool) (fr : FrameOperand)
  /-- `DECODE [buf]` (R143). -/
  | decode (buf : List Byte)
  deriving DecidableEq, Repr

end Sys2Proof
end

