-- ==== Sys2Proof/WellFormed.lean ====
section
/-! DEFINITION. The checks a command must pass beyond its type: the operand limits of the port
(spec/30_encoding.md R70, spec/92_eei_decisions.md D12 and D23). -/

namespace Sys2Proof

/-- A `BYTES` operand has at most `OPND_MAX` bytes (R70, D23). -/
def bytesFit (s : List Byte) : Bool := decide (s.length ≤ Config.opndMax)

/-- A Frame record's payload has exactly `len` bytes, so at most 255 (R34, D12). -/
def FrameOperand.wf (f : FrameOperand) : Bool := decide (f.payload.length = f.len.toNat)

/-- A command that the port can carry. -/
def Instr.wf : Instr → Bool
  | .sdProcess _ => true
  | .sdReset => true
  | .sdState => true
  | .crcInit => true
  | .crcUpdate _ => true
  | .crcRead => true
  | .crcTable _ => true
  | .checksum s => bytesFit s
  | .verify buf => bytesFit buf
  | .packStatus _ _ => true
  | .unpackStatus _ => true
  | .encode _ fr => fr.wf
  | .decode buf => bytesFit buf

end Sys2Proof
end

