-- ==== Sys2Proof/Decode.lean ====
section
/-! DEFINITION. Command words and commands: the decoder (total on every word and operand, rejecting by
name), the encoder, and the match and mask table (spec/30_encoding.md R71 to R74, R80, R81). -/

namespace Sys2Proof

/-! ## The fields of a command word (R71) -/

/-- `OP`, bits 15:12. -/
def opField (w : Word) : BitVec 4 := w.extractLsb' 12 4

/-- `F`, bit 11: the force flag. -/
def forceField (w : Word) : Bool := w.getLsbD 11

/-- `Z`, bits 10:8: reserved, must be 0. -/
def zField (w : Word) : BitVec 3 := w.extractLsb' 8 3

/-- `D`, bits 7:0: the data byte, taken whole (R72). -/
def dField (w : Word) : Byte := w.extractLsb' 0 8

/-- The word with the given `OP`, `F` and `D` and with `Z = 0` (R71). -/
def mkWord (op : BitVec 4) (f : Bool) (d : Byte) : Word :=
  (op.setWidth 16 <<< 12) ||| ((BitVec.ofBool f).setWidth 16 <<< 11) ||| d.setWidth 16

/-! ## The decoder (R73, R80) -/

/-- Why a command is illegal (R80); every one of them responds `ILLEGAL_COMMAND`. -/
inductive IllegalReason where
  /-- `OP` is `0x0`, `0xE` or `0xF`. -/
  | reservedOp
  /-- `Z` is not 0. -/
  | reservedZ
  /-- `F` is 1 for an `OP` that does not use it. -/
  | forceSet
  /-- `D` is not 0 for an `OP` that does not use it. -/
  | dataNotZero
  /-- The operand kind is not the one R73 names. -/
  | wrongOperandKind
  deriving DecidableEq, Repr

/-- Goes on only when `F` is 0 (R73, an `F` column of 0). -/
def requireNoForce (w : Word) (k : Except IllegalReason Instr) : Except IllegalReason Instr :=
  if forceField w then .error .forceSet else k

/-- Goes on only when `D` is 0 (R73, a `D` column of 0). -/
def requireNoData (w : Word) (k : Except IllegalReason Instr) : Except IllegalReason Instr :=
  if dField w = 0 then k else .error .dataNotZero

/-- Goes on only with operand `NONE`. -/
def requireNone (o : Operand) (i : Instr) : Except IllegalReason Instr :=
  match o with
  | .none => .ok i
  | .bytes _ => .error .wrongOperandKind
  | .frame _ => .error .wrongOperandKind

/-- Goes on only with operand `BYTES`. -/
def requireBytes (o : Operand) (i : List Byte → Instr) : Except IllegalReason Instr :=
  match o with
  | .none => .error .wrongOperandKind
  | .bytes s => .ok (i s)
  | .frame _ => .error .wrongOperandKind

/-- Goes on only with operand `FRAME`. -/
def requireFrame (o : Operand) (i : FrameOperand → Instr) : Except IllegalReason Instr :=
  match o with
  | .none => .error .wrongOperandKind
  | .bytes _ => .error .wrongOperandKind
  | .frame f => .ok (i f)

/-- The command that a word and its operand name, by the opcode map of R73. -/
def decodeOp (w : Word) (o : Operand) : Except IllegalReason Instr :=
  match (opField w).toNat with
  | 1 => requireNoForce w (requireNone o (.sdProcess (dField w)))
  | 2 => requireNoForce w (requireNoData w (requireNone o .sdReset))
  | 3 => requireNoForce w (requireNoData w (requireNone o .sdState))
  | 4 => requireNoForce w (requireNoData w (requireNone o .crcInit))
  | 5 => requireNoForce w (requireNone o (.crcUpdate (dField w)))
  | 6 => requireNoForce w (requireNoData w (requireNone o .crcRead))
  | 7 => requireNoForce w (requireNone o (.crcTable (dField w)))
  | 8 => requireNoForce w (requireNoData w (requireBytes o .checksum))
  | 9 => requireNoForce w (requireNoData w (requireBytes o .verify))
  | 10 => requireNone o (.packStatus (forceField w) (dField w))
  | 11 => requireNoForce w (requireNone o (.unpackStatus (dField w)))
  | 12 => requireNoData w (requireFrame o (.encode (forceField w)))
  | 13 => requireNoForce w (requireNoData w (requireBytes o .decode))
  | _ => .error .reservedOp

/-- Every 16-bit word with every operand is exactly one legal command or illegal (R80). -/
def decode (w : Word) (o : Operand) : Except IllegalReason Instr :=
  if zField w = 0 then decodeOp w o else .error .reservedZ

/-! ## The encoder (R73, R87) -/

/-- The command word and the operand of a command. -/
def encode : Instr → Word × Operand
  | .sdProcess b => (mkWord 0x1 false b, .none)
  | .sdReset => (mkWord 0x2 false 0, .none)
  | .sdState => (mkWord 0x3 false 0, .none)
  | .crcInit => (mkWord 0x4 false 0, .none)
  | .crcUpdate b => (mkWord 0x5 false b, .none)
  | .crcRead => (mkWord 0x6 false 0, .none)
  | .crcTable i => (mkWord 0x7 false i, .none)
  | .checksum s => (mkWord 0x8 false 0, .bytes s)
  | .verify buf => (mkWord 0x9 false 0, .bytes buf)
  | .packStatus force f => (mkWord 0xA force f, .none)
  | .unpackStatus s => (mkWord 0xB false s, .none)
  | .encode force fr => (mkWord 0xC force 0, .frame fr)
  | .decode buf => (mkWord 0xD false 0, .bytes buf)

/-! ## The match and mask table (R74) -/

/-- One row of R74, with the operand kind of the same row of R73. -/
structure TableRow where
  mnemonic : String
  matchBits : Word
  mask : Word
  operand : OperandKind
  deriving DecidableEq, Repr

/-- The rows of R74, in its order. -/
def commandTable : List TableRow :=
  [ ⟨"SD.PROCESS", 0x1000, 0xFF00, .none⟩,
    ⟨"SD.RESET", 0x2000, 0xFFFF, .none⟩,
    ⟨"SD.STATE", 0x3000, 0xFFFF, .none⟩,
    ⟨"CRC.INIT", 0x4000, 0xFFFF, .none⟩,
    ⟨"CRC.UPDATE", 0x5000, 0xFF00, .none⟩,
    ⟨"CRC.READ", 0x6000, 0xFFFF, .none⟩,
    ⟨"CRC.TABLE", 0x7000, 0xFF00, .none⟩ ] ++
  [ ⟨"CHECKSUM", 0x8000, 0xFFFF, .bytes⟩,
    ⟨"VERIFY", 0x9000, 0xFFFF, .bytes⟩,
    ⟨"PACK.STATUS", 0xA000, 0xF700, .none⟩,
    ⟨"UNPACK.STATUS", 0xB000, 0xFF00, .none⟩,
    ⟨"ENCODE", 0xC000, 0xF7FF, .frame⟩,
    ⟨"DECODE", 0xD000, 0xFFFF, .bytes⟩ ]

/-- "A command is legal exactly when `(word AND mask) = match` for one row and its operand has the kind
that row names" (R74): what one row asks. -/
def TableRow.accepts (r : TableRow) (w : Word) (o : Operand) : Bool :=
  decide (w &&& r.mask = r.matchBits) && decide (o.kind = r.operand)

/-- The mnemonic of a command, as R73 and spec/opcode_table.json spell it. -/
def Instr.mnemonic : Instr → String
  | .sdProcess _ => "SD.PROCESS"
  | .sdReset => "SD.RESET"
  | .sdState => "SD.STATE"
  | .crcInit => "CRC.INIT"
  | .crcUpdate _ => "CRC.UPDATE"
  | .crcRead => "CRC.READ"
  | .crcTable _ => "CRC.TABLE"
  | .checksum _ => "CHECKSUM"
  | .verify _ => "VERIFY"
  | .packStatus _ _ => "PACK.STATUS"
  | .unpackStatus _ => "UNPACK.STATUS"
  | .encode _ _ => "ENCODE"
  | .decode _ => "DECODE"

/-! ## What the port can carry -/

/-- An operand that can be presented: a `BYTES` operand of at most `OPND_MAX` bytes, a `FRAME` whose
payload has `len` bytes (R70, I1, I11). -/
def Operand.presentable : Operand → Bool
  | .none => true
  | .bytes s => bytesFit s
  | .frame f => f.wf

/-! ## Words of the opcode table read on their own -/

/-- The Frame operand with every field zero and an empty payload. -/
def FrameOperand.zero : FrameOperand := { command := 0, flags := 0, len := 0, payload := [] }

/-- The table gives an operand no bits: the empty operand of the kind that the word's `OP` asks for
(log entry 15). -/
def emptyOperandFor (w : Word) : Operand :=
  match (opField w).toNat with
  | 8 => .bytes []
  | 9 => .bytes []
  | 12 => .frame FrameOperand.zero
  | 13 => .bytes []
  | _ => .none

/-- The word whose low `nbits` bits are `w`'s and whose other bits are 0. -/
def tableWord (nbits w : Nat) : Word := BitVec.ofNat 16 (w % 2 ^ nbits)

/-- The command this decoder reads from a word of the opcode table, with the empty operand of its kind. -/
def decodeTableWord (nbits w : Nat) : Option Instr :=
  match decode (tableWord nbits w) (emptyOperandFor (tableWord nbits w)) with
  | .ok i => some i
  | .error _ => none

end Sys2Proof
end

