-- ==== Sys2Proof/Machine/State.lean ====
section
/-! DEFINITION. The state of one instance of the block (spec/10_state.md R20 to R37), the response record
(spec/30_encoding.md R75), the inputs of the command port, and the reasons a step can stop. -/

namespace Sys2Proof.Machine

/-! ## Values a response carries -/

/-- The tri-state `parsed_checksum_valid` and the VERIFY result (R34, R78). -/
inductive Tri where
  | unknown
  | valid
  | invalid
  deriving DecidableEq, Repr

/-- The error codes of `err` (R77). -/
inductive ErrCode where
  | none
  | illegalCommand
  | tooShort
  | lengthMismatch
  deriving DecidableEq, Repr

/-- The diagnostic codes of `diag` (R79). -/
inductive Diag where
  | none
  | syncMismatch
  | unexpectedState
  deriving DecidableEq, Repr

/-- The two FramingError kinds of the source (R16, R223, R224). -/
inductive FramingError where
  | tooShort
  | lengthMismatch
  deriving DecidableEq, Repr

/-- The seven independent flags of a Frame (R34, R35). -/
structure Flags where
  includesChecksum : Bool := false
  slaveReply : Bool := false
  invalidData : Bool := false
  commandNotSupported : Bool := false
  checksumNotValid : Bool := false
  tooLongTmp : Bool := false
  tooLong : Bool := false
  deriving DecidableEq, Repr

/-- A Frame record (R34). The defaults are the zero `frame` of R76. -/
structure Frame where
  command : Byte := 0
  len : Byte := 0
  payload : List Byte := []
  flags : Flags := {}
  parsedChecksumValid : Tri := .unknown
  deriving DecidableEq, Repr

/-- The response record (R75). The defaults are R76's: every field a rule does not name is zero. -/
structure Response where
  err : ErrCode := .none
  data8 : Byte := 0
  data16 : Word := 0
  tri : Tri := .unknown
  frameValid : Bool := false
  frame : Frame := {}
  bytes : List Byte := []
  diag : Diag := .none
  diagState : BitVec 4 := 0
  stState : BitVec 4 := 0
  stCnt : BitVec 9 := 0
  stRem : Byte := 0
  stExp : Bool := false
  deriving DecidableEq, Repr

/-! ## Inputs -/

/-- What the outside can do to the block: issue a command (R70), or reset the block (R250), which is
taken between commands, never within one (R57, D22; log entry 2). -/
inductive Input where
  | command (w : Word) (o : Operand)
  | blockReset
  deriving DecidableEq, Repr

/-! ## The state -/

/-- The state. The first six fields are the architectural state, "exactly these six items" (R20).
The last three are the model's own: the parameters fixed at build time (log entry 7), the inputs the host
has issued and the block has not taken yet (log entry 1), and the response of the last input taken (log
entry 4). -/
structure State where
  /-- `SD_STATE`, the FSM state number (R26). -/
  sdState : BitVec 4
  /-- `SD_ACC`, the accumulator, an array of `ACC_DEPTH` = 264 bytes (R11, R27). -/
  sdAcc : Vector Byte 264
  /-- `SD_CNT`, the number of bytes held in `SD_ACC` (R28). -/
  sdCnt : BitVec 9
  /-- `SD_REM`, the remaining-payload counter (R29). -/
  sdRem : Byte
  /-- `SD_EXP`, the `expecting_checksum` flag (R30). -/
  sdExp : Bool
  /-- `CRC`, the running checksum (R33). -/
  crc : Word
  /-- `P_CNV_OVERWRITE` and `P_CKSUM_ENABLE_SOURCE` (R11, R25). -/
  params : Config.Params
  /-- The inputs issued and not yet taken, oldest first (R56, D28). -/
  inputs : List Input
  /-- The response of the last input taken; `none` when that input gives no response (R250). -/
  resp : Option Response
  deriving DecidableEq, Repr

/-! ## The names of the ten FSM states (R26) -/

namespace Fsm
abbrev sync1 : BitVec 4 := 0
abbrev sync2 : BitVec 4 := 1
abbrev sync3 : BitVec 4 := 2
abbrev sync4 : BitVec 4 := 3
abbrev status : BitVec 4 := 4
abbrev command : BitVec 4 := 5
abbrev length : BitVec 4 := 6
abbrev payload : BitVec 4 := 7
abbrev cksum1 : BitVec 4 := 8
abbrev cksum2 : BitVec 4 := 9
end Fsm

/-! ## Why a step can stop -/

/-- Faults. Both are raised only in states outside the invariant of R31, to which the spec gives no
effect; no run from reset meets one. -/
inductive Fault where
  /-- Raised by SD.PROCESS when an arm appends with `SD_CNT >= 264`, an entry `SD_ACC` does not have
  (R27, R31). Safe: the model stops where the spec gives no behaviour (log entry 9). -/
  | accumulatorFull
  /-- Raised by SD.PROCESS in state 9 when the accumulated buffer does not decode, which R189 says never
  happens. Safe: the model stops where the spec gives no behaviour (log entry 10). -/
  | accumulatedFrameMalformed
  deriving DecidableEq, Repr

/-- Refusals. -/
inductive Refusal where
  /-- Raised by an arm of `exec` for an instruction without a meaning; no arm of this model raises it.
  Safe: the model stops. -/
  | notModelled (mnemonic : String)
  /-- Raised by the port for a `BYTES` operand longer than `OPND_MAX`: "it cannot be presented" (I11).
  Safe: the model stops (log entry 12). -/
  | operandTooLong
  /-- Raised by the port for a `FRAME` operand whose payload has not `len` bytes: "the Frame record
  cannot hold it" (I1). Safe: the model stops (log entry 12). -/
  | payloadNotLen
  deriving DecidableEq, Repr

/-! ## Reset -/

/-- The state right after reset (R250). `SD_ACC` is "unspecified and unobservable" (R27); the model
holds zeros there (DESIGN CHOICE, log entry 5). -/
def State.reset : State where
  sdState := 0
  sdAcc := Vector.replicate 264 0
  sdCnt := 0
  sdRem := 0
  sdExp := false
  crc := 0x1D0F
  params := Config.Params.spec
  inputs := []
  resp := none

end Sys2Proof.Machine
end

