-- ==== Sys2Proof/Machine/Codes.lean ====
section
/-! DEFINITION. The numeric codes of the response fields (spec/30_encoding.md R77 to R79) and the two
FramingError kinds as error codes. -/

namespace Sys2Proof.Machine

/-- `err`: 0 NONE, 1 ILLEGAL_COMMAND, 2 TOO_SHORT, 3 LENGTH_MISMATCH (R77). -/
def ErrCode.code : ErrCode → BitVec 2
  | .none => 0
  | .illegalCommand => 1
  | .tooShort => 2
  | .lengthMismatch => 3

/-- `tri`: 0 unknown, 1 valid, 2 invalid; code 3 is never produced (R78). -/
def Tri.code : Tri → BitVec 2
  | .unknown => 0
  | .valid => 1
  | .invalid => 2

/-- `diag`: 0 none, 1 SYNC_MISMATCH, 2 UNEXPECTED_STATE; code 3 is never produced (R79). -/
def Diag.code : Diag → BitVec 2
  | .none => 0
  | .syncMismatch => 1
  | .unexpectedState => 2

/-- The error code of a FramingError kind (R77, R220). -/
def FramingError.errCode : FramingError → ErrCode
  | .tooShort => .tooShort
  | .lengthMismatch => .lengthMismatch

end Sys2Proof.Machine
end

