-- ==== Sys2Proof/Machine/Ops.lean ====
section
/-! DEFINITION. The shared operations over the state: responding, raising an error, the accumulator's
`append`, the automaton's reset, the block reset, and taking an input from the port. -/

namespace Sys2Proof.Machine

/-- The outcome of one command or step. -/
abbrev Result := Host.Outcome State Fault Refusal

/-! ## Responses and errors -/

/-- `respond(...)`: ends the command with a response (R14, R76). -/
def respond (r : Response) (s : State) : Result := .next { s with resp := some r }

/-- `raise E`: ends the command with an error code, every other field zero and no state written (R14,
R221). It stands for taking an exception: the block has no trap mechanism (R229), so nothing is saved and
no handler is entered. -/
def raiseError (e : ErrCode) (s : State) : Result := respond { err := e } s

/-- The response of a FramingError (R112, R143, R223, R224). -/
def raiseFraming (e : FramingError) (s : State) : Result := raiseError e.errCode s

/-- An illegal command responds `ILLEGAL_COMMAND` and changes no state (R80, R222). -/
def illegalCommand (s : State) : Result := raiseError .illegalCommand s

/-! ## The accumulator -/

/-- `append(b)`: `SD_ACC[SD_CNT] <- b; SD_CNT <- SD_CNT + 1` (R14). It is `SD_ACC`'s only writer (R27). -/
def append (b : Byte) (s : State) : State :=
  { s with sdAcc := s.sdAcc.setIfInBounds s.sdCnt.toNat b, sdCnt := s.sdCnt + 1 }

/-- `append(b)` and then `k`. `SD_ACC` has no entry at 264 or above, and no reachable state appends there
(R31; log entry 9). -/
def appendThen (b : Byte) (s : State) (k : State → Result) : Result :=
  if s.sdCnt.toNat < Config.accDepth then k (append b s) else .fault .accumulatorFull

/-- `SD_ACC[0 .. SD_CNT)`, the bytes of the in-progress frame (R27, R184). -/
def accBuffer (s : State) : List Byte := s.sdAcc.toList.take s.sdCnt.toNat

/-! ## Resets -/

/-- `sd_reset()` (R173). The bytes left in `SD_ACC` stay, unobservable. -/
def sdReset (s : State) : State := { s with sdState := 0, sdCnt := 0, sdRem := 0, sdExp := false }

/-- `block_reset()` (R250): the automaton's reset and `CRC <- 0x1D0F`, with no response. -/
def blockReset (s : State) : State := { sdReset s with crc := Config.crcInit, resp := none }

/-! ## The command port -/

/-- The oldest input the host has issued, and the state in which the block has taken it (R56). -/
def takeInput (s : State) : Option (Input × State) :=
  match s.inputs with
  | [] => none
  | inp :: rest => some (inp, { s with inputs := rest })

/-- Why an operand cannot be presented, if it cannot (I1, I11; log entry 12). -/
def unpresentable (o : Operand) : Option Refusal :=
  match o with
  | .none => none
  | .bytes s => if bytesFit s then none else some .operandTooLong
  | .frame f => if f.wf then none else some .payloadNotLen

end Sys2Proof.Machine
end

