-- ==== Sys2Proof/Machine/Operands.lean ====
section
/-! DEFINITION. The operand forms: byte sequences, their fields at fixed offsets, and 16-bit values as
bytes (spec/00_scope.md R13, spec/20_memory.md R54, R55, spec/41_frame_codec.md R141). -/

namespace Sys2Proof.Machine

/-- `be16(v) = [v[15:8], v[7:0]]`, most significant byte first (R13, R54). -/
def be16 (v : Word) : List Byte := [v.extractLsb' 8 8, v.extractLsb' 0 8]

/-- `from_be16([h, l]) = (h << 8) OR l` (R13). -/
def fromBe16 (h l : Byte) : Word := (h.setWidth 16 <<< 8) ||| l.setWidth 16

/-- `s[a..b)`: the bytes at indices `a` to `b-1`, empty when `a >= b` (R13). -/
def slice (s : List Byte) (a b : Nat) : List Byte := (s.drop a).take (b - a)

/-- `s[i]`, read only where `i < len(s)` (R13). -/
def byteAt (s : List Byte) (i : Nat) : Byte := s.getD i 0

/-- The status byte of a frame buffer, at offset 4 (R82, R141). -/
def bufStatus (buf : List Byte) : Byte := byteAt buf 4

/-- The command byte, at offset 5 (R82, R141). -/
def bufCommand (buf : List Byte) : Byte := byteAt buf 5

/-- The length byte, at offset 6 (R82, R141). -/
def bufLength (buf : List Byte) : Byte := byteAt buf 6

/-- The payload `buf[7 .. 7+N)` (R82, R140). -/
def bufPayload (buf : List Byte) : List Byte := slice buf 7 (7 + (bufLength buf).toNat)

/-- The bytes the checksum covers, `buf[2 .. n-2)` (R85, R111). -/
def bufCovered (buf : List Byte) : List Byte := slice buf 2 (buf.length - 2)

/-- The trailer `buf[n-2 .. n)` (R86, R111). -/
def bufTrailer (buf : List Byte) : List Byte := slice buf (buf.length - 2) buf.length

end Sys2Proof.Machine
end

