-- ==== Sys2Proof/Machine/CrcFunctions.lean ====
section
/-! DEFINITION. The pure functions of the CRC unit: the table, the step, the checksum
(spec/40_crc.md R100 to R104). -/

namespace Sys2Proof.Machine

/-- The rounds of R100 on the register `r` and the byte contribution `c`. -/
def crcTableRounds : Nat → Word → Word → Word
  | 0, r, _ => r
  | n + 1, r, c =>
    crcTableRounds n (if (r ^^^ c).getLsbD 15 then (r <<< 1) ^^^ Config.crcPoly else r <<< 1) (c <<< 1)

/-- `crc_table(i)`: 8 rounds from `r = 0` with the byte contribution `i << 8` (R100). -/
def crcTable (i : Byte) : Word := crcTableRounds 8 0x0000 (i.setWidth 16 <<< 8)

/-- `crc_step(c, b)` (R102). -/
def crcStep (c : Word) (b : Byte) : Word :=
  let idx := ((c >>> 8) ^^^ b.setWidth 16) &&& 0x00FF
  ((c.setWidth 24 <<< 8) ^^^ (crcTable (idx.extractLsb' 0 8)).setWidth 24).setWidth 16

/-- `crc16` continued over `s` from the value `v` (R103, R113). -/
def crcFold (v : Word) (s : List Byte) : Word := s.foldl crcStep v

/-- `crc16(s)`, from the seed `0x1D0F` (R103). -/
def crc16 (s : List Byte) : Word := crcFold Config.crcInit s

/-- `checksum(s) = be16(crc16(s))` (R104). -/
def checksum (s : List Byte) : List Byte := be16 (crc16 s)

/-- One round of the bit-serial, MSB-first update (R100, R102). -/
def crcRound (v : Word) : Word := if v.getLsbD 15 then (v <<< 1) ^^^ Config.crcPoly else v <<< 1

/-- `n` rounds of the bit-serial update (R100, R102). -/
def crcRounds : Nat → Word → Word
  | 0, v => v
  | n + 1, v => crcRounds n (crcRound v)

end Sys2Proof.Machine
end

