-- ==== Sys2Proof/Machine/Flags.lean ====
section
/-! DEFINITION. The status byte and the flags byte: packing with its overwrite anomaly, unpacking, the
state-4 test, and when a checksum is included (spec/30_encoding.md R84, spec/41_frame_codec.md R130 to
R136, spec/42_stream_sync.md R171). -/

namespace Sys2Proof.Machine

/-- The flags byte with the flags at their status-bit positions; bit 5 is 0 on output (R84). -/
def Flags.toByte (f : Flags) : Byte :=
  BitVec.ofBool f.includesChecksum ++ BitVec.ofBool f.slaveReply ++ 0#1 ++ BitVec.ofBool f.invalidData ++
    BitVec.ofBool f.commandNotSupported ++ BitVec.ofBool f.checksumNotValid ++ BitVec.ofBool f.tooLongTmp ++
    BitVec.ofBool f.tooLong

/-- The flags of a flags byte; bit 5 is ignored on input (R84). -/
def Flags.ofByte (b : Byte) : Flags where
  includesChecksum := b.getLsbD 7
  slaveReply := b.getLsbD 6
  invalidData := b.getLsbD 4
  commandNotSupported := b.getLsbD 3
  checksumNotValid := b.getLsbD 2
  tooLongTmp := b.getLsbD 1
  tooLong := b.getLsbD 0

/-- One line `if c then s <- s OR v` of R130. -/
def orIf (c : Bool) (v s : Byte) : Byte := if c then s ||| v else s

/-- One line `if c then s <- 0x04` of R130: the overwrite, kept as it stands (R131). -/
def overwriteIf (c : Bool) (s : Byte) : Byte := if c then 0x04 else s

/-- `pack_status(f, force)`, line by line (R130). -/
def packStatus (p : Config.Params) (f : Byte) (force : Bool) : Byte :=
  let s := 0x00
  let s := orIf (f.getLsbD 7 || force) 0x80 s
  let s := orIf (f.getLsbD 6) 0x40 s
  let s := orIf (f.getLsbD 4) 0x10 s
  let s := orIf (f.getLsbD 3) 0x08 s
  let s := overwriteIf (decide (p.cnvOverwrite = .inOrder) && f.getLsbD 2) s
  let s := orIf (f.getLsbD 1) 0x02 s
  let s := orIf (f.getLsbD 0) 0x01 s
  overwriteIf (decide (p.cnvOverwrite = .all) && f.getLsbD 2) s

/-- `unpack_status(s) = s AND 0xDF` (R132). -/
def unpackStatus (s : Byte) : Byte := s &&& 0xDF

/-- `cksum_enabled(f, force, s)` (R136). -/
def cksumEnabled (p : Config.Params) (f : Byte) (force : Bool) (s : Byte) : Bool :=
  match p.cksumSource with
  | .flag => f.getLsbD 7 || force
  | .statusBit => s.getLsbD 7

/-- `illegal_request(s) = ((s AND 0x1F) != 0) and (s[6] = 0)` (R171). -/
def illegalRequest (s : Byte) : Bool := decide (s &&& 0x1F ≠ 0) && !s.getLsbD 6

end Sys2Proof.Machine
end

