-- ==== Sys2Proof/Machine/FrameFunctions.lean ====
section
/-! DEFINITION. The pure functions of the frame codec: encode, verify, decode (spec/40_crc.md R111,
spec/41_frame_codec.md R135 to R142). -/

namespace Sys2Proof.Machine

/-- The frame without its trailer: preamble, status, command, length, payload (R82, R135). -/
def frameBody (p : Config.Params) (fr : FrameOperand) (force : Bool) : List Byte :=
  Config.sync ++ [packStatus p fr.flags force, fr.command, fr.len] ++ fr.payload

/-- The trailer: the checksum of `body[2 .. 7+N)` when a checksum is included, else the filler (R86,
R135, R136). -/
def frameTrailer (p : Config.Params) (fr : FrameOperand) (force : Bool) : List Byte :=
  if cksumEnabled p fr.flags force (packStatus p fr.flags force) then
    checksum (slice (frameBody p fr force) 2 (7 + fr.len.toNat))
  else
    [0x00, 0x00]

/-- `encode(fr, force)` (R135). -/
def encodeFrame (p : Config.Params) (fr : FrameOperand) (force : Bool) : List Byte :=
  frameBody p fr force ++ frameTrailer p fr force

/-- `verify(buf)` (R111). -/
def verifyBuffer (buf : List Byte) : Except FramingError Tri :=
  if buf.length < 9 then .error .tooShort
  else if (bufLength buf).toNat ≠ buf.length - 9 then .error .lengthMismatch
  else if (bufStatus buf).getLsbD 7 = false then .ok .unknown
  else if checksum (bufCovered buf) = bufTrailer buf then .ok .valid
  else .ok .invalid

/-- `decode(buf)` (R140). It checks only what `verify` checks (R142). -/
def decodeFrame (buf : List Byte) : Except FramingError Frame :=
  match verifyBuffer buf with
  | .error e => .error e
  | .ok r =>
    .ok { command := bufCommand buf, len := bufLength buf, payload := bufPayload buf,
          flags := Flags.ofByte (unpackStatus (bufStatus buf)), parsedChecksumValid := r }

end Sys2Proof.Machine
end

