-- ==== Sys2Proof/Machine/Codec.lean ====
section
/-! DEFINITION. The frame codec's commands: PACK.STATUS, UNPACK.STATUS, ENCODE, DECODE
(spec/41_frame_codec.md R133, R134, R138, R143). None of them writes state. -/

namespace Sys2Proof.Machine

/-- `PACK.STATUS f` and `PACK.STATUS.F f` (R133). -/
def execPackStatus (force : Bool) (f : Byte) (s : State) : Result :=
  respond { data8 := packStatus s.params f force } s

/-- `UNPACK.STATUS b` (R134). -/
def execUnpackStatus (b : Byte) (s : State) : Result := respond { data8 := unpackStatus b } s

/-- `ENCODE fr` and `ENCODE.F fr` (R138). -/
def execEncode (force : Bool) (fr : FrameOperand) (s : State) : Result :=
  respond { bytes := encodeFrame s.params fr force } s

/-- `DECODE [buf]` (R143). -/
def execDecode (buf : List Byte) (s : State) : Result :=
  match decodeFrame buf with
  | .error e => raiseFraming e s
  | .ok fr => respond { frameValid := true, frame := fr } s

end Sys2Proof.Machine
end

