-- ==== Sys2Proof/Machine/Crc.lean ====
section
/-! DEFINITION. The CRC unit's commands: CRC.INIT, CRC.UPDATE, CRC.READ, CRC.TABLE, CHECKSUM, VERIFY
(spec/40_crc.md R105 to R112). Only the first two write `CRC` (R110). -/

namespace Sys2Proof.Machine

/-- `CRC.INIT` (R105). -/
def execCrcInit (s : State) : Result := respond {} { s with crc := Config.crcInit }

/-- `CRC.UPDATE b` (R107). -/
def execCrcUpdate (b : Byte) (s : State) : Result := respond {} { s with crc := crcStep s.crc b }

/-- `CRC.READ` (R108). -/
def execCrcRead (s : State) : Result := respond { data16 := s.crc } s

/-- `CRC.TABLE i` (R106). -/
def execCrcTable (i : Byte) (s : State) : Result := respond { data16 := crcTable i } s

/-- `CHECKSUM [bs]` (R109). -/
def execChecksum (bs : List Byte) (s : State) : Result :=
  respond { data16 := crc16 bs, bytes := checksum bs } s

/-- `VERIFY [buf]` (R112). -/
def execVerify (buf : List Byte) (s : State) : Result :=
  match verifyBuffer buf with
  | .error e => raiseFraming e s
  | .ok r => respond { tri := r } s

end Sys2Proof.Machine
end

