-- ==== Sys2Proof/Machine/StreamSync.lean ====
section
/-! DEFINITION. The stream-sync unit: SD.PROCESS, SD.RESET, SD.STATE (spec/42_stream_sync.md R170 to
R196). Each arm of SD.PROCESS is a definition of its own. -/

namespace Sys2Proof.Machine

/-- State 0: append on `0x55`, else discard the byte silently (R174). -/
def processSync1 (b : Byte) (s : State) : Result :=
  if b = 0x55 then appendThen b s fun t => respond {} { t with sdState := Fsm.sync2 }
  else respond {} s

/-- States 1 to 3: append the expected sync byte and go on, else reset with a `SYNC_MISMATCH` (R175 to
R177). The mismatching byte is consumed, not examined again (R187). -/
def processSync (expected : Byte) (next : BitVec 4) (b : Byte) (s : State) : Result :=
  if b = expected then appendThen b s fun t => respond {} { t with sdState := next }
  else respond { diag := .syncMismatch, diagState := s.sdState } (sdReset s)

/-- State 4: an illegal request is dropped silently (R179), any other status byte is accepted and its
bit 7 recorded (R178). -/
def processStatus (b : Byte) (s : State) : Result :=
  if illegalRequest b then respond {} (sdReset s)
  else
    appendThen b { s with sdExp := b.getLsbD 7 } fun t => respond {} { t with sdState := Fsm.command }

/-- State 5 (R180). -/
def processCommand (b : Byte) (s : State) : Result :=
  appendThen b s fun t => respond {} { t with sdState := Fsm.length }

/-- State 6: the length byte is stored as the remaining count (R181). -/
def processLength (b : Byte) (s : State) : Result :=
  appendThen b s fun t =>
    respond {} { t with sdRem := b, sdState := if b = 0 then Fsm.cksum1 else Fsm.payload }

/-- State 7: the decremented count is tested (R182). With `SD_REM = 0`, which no run reaches, the 8-bit
register wraps (log entry 11). -/
def processPayload (b : Byte) (s : State) : Result :=
  appendThen b s fun t =>
    respond {} { t with
      sdRem := t.sdRem - 1, sdState := if t.sdRem - 1 = 0 then Fsm.cksum1 else Fsm.payload }

/-- State 8 (R183). -/
def processCksum1 (b : Byte) (s : State) : Result :=
  appendThen b s fun t => respond {} { t with sdState := Fsm.cksum2 }

/-- State 9: the accumulated buffer is decoded and the automaton reset (R184). R189 says the decode never
fails; a state where it would is no state of R31 (log entry 10). -/
def processCksum2 (b : Byte) (s : State) : Result :=
  appendThen b s fun t =>
    match decodeFrame (accBuffer t) with
    | .ok fr => respond { frameValid := true, frame := fr } (sdReset t)
    | .error _ => .fault .accumulatedFrameMalformed

/-- A state value outside 0 to 9 (R186). -/
def processUnexpected (s : State) : Result :=
  respond { diag := .unexpectedState, diagState := s.sdState } (sdReset s)

/-- `SD.PROCESS b` (R172): the arm of the current state. -/
def execSdProcess (b : Byte) (s : State) : Result :=
  match s.sdState.toNat with
  | 0 => processSync1 b s
  | 1 => processSync 0x55 Fsm.sync3 b s
  | 2 => processSync 0x42 Fsm.sync4 b s
  | 3 => processSync 0x42 Fsm.status b s
  | 4 => processStatus b s
  | 5 => processCommand b s
  | 6 => processLength b s
  | 7 => processPayload b s
  | 8 => processCksum1 b s
  | 9 => processCksum2 b s
  | _ => processUnexpected s

/-- `SD.RESET` (R190). -/
def execSdReset (s : State) : Result := respond {} (sdReset s)

/-- `SD.STATE` (R193). -/
def execSdState (s : State) : Result :=
  respond { stState := s.sdState, stCnt := s.sdCnt, stRem := s.sdRem, stExp := s.sdExp } s

end Sys2Proof.Machine
end

