-- ==== Sys2Proof/Machine/Dispatch.lean ====
section
/-! DEFINITION. One arm per command of spec/opcode_table.json. -/

namespace Sys2Proof.Machine

def exec (i : Instr) (s : State) : Host.Outcome State Fault Refusal :=
  match i with
  | .sdProcess b => Sys2Proof.Machine.execSdProcess b s
  | .sdReset => Sys2Proof.Machine.execSdReset s
  | .sdState => Sys2Proof.Machine.execSdState s
  | .crcInit => Sys2Proof.Machine.execCrcInit s
  | .crcUpdate b => Sys2Proof.Machine.execCrcUpdate b s
  | .crcRead => Sys2Proof.Machine.execCrcRead s
  | .crcTable i1 => Sys2Proof.Machine.execCrcTable i1 s
  | .checksum bs => Sys2Proof.Machine.execChecksum bs s
  | .verify buf => Sys2Proof.Machine.execVerify buf s
  | .packStatus force f => Sys2Proof.Machine.execPackStatus force f s
  | .unpackStatus b => Sys2Proof.Machine.execUnpackStatus b s
  | .encode force fr => Sys2Proof.Machine.execEncode force fr s
  | .decode buf => Sys2Proof.Machine.execDecode buf s

end Sys2Proof.Machine
end

