-- ==== Sys2Proof/Machine/Step.lean ====
section
/-! DEFINITION. One step: the block takes the oldest input of its port and completes it, with all its
state writes and its response (spec/20_memory.md R56, R57; spec/30_encoding.md R70, R80). -/

namespace Sys2Proof.Machine

/-- A command word and its operand: a command that is illegal responds `ILLEGAL_COMMAND` (R80), a legal
one runs; an operand that cannot be presented is refused (I1, I11). -/
def runCommand (w : Word) (o : Operand) (s : State) : Host.Outcome State Fault Refusal :=
  match unpresentable o with
  | some r => .refused r
  | none =>
    match Sys2Proof.decode w o with
    | .ok i => exec i s
    | .error _ => illegalCommand s

/-- One step. With no input the block waits (R52, R252; log entry 3). -/
def step (s : State) : Host.Outcome State Fault Refusal :=
  match takeInput s with
  | none => .next s
  | some (.blockReset, t) => .next (blockReset t)
  | some (.command w o, t) => runCommand w o t

/-- `s` with the command of the table word `w` issued as the next input, with the empty operand of its
kind (log entries 1 and 15). -/
def State.withFetchWord (s : State) (nbits w : Nat) : State :=
  { s with
    inputs := .command (tableWord nbits w) (emptyOperandFor (tableWord nbits w)) :: s.inputs }

end Sys2Proof.Machine
end

