-- ==== Sys2Proof/Machine/Assembly.lean ====
section
/-! DEFINITION. The assembly lines and the pseudo-instructions of spec/30_encoding.md R87 and R88, as
abstract syntax and its expansion into commands. Machine/AsmText.lean reads the text of a line. -/

namespace Sys2Proof.Machine

/-- One assembly line: the thirteen commands of R87, with the `.F` spellings, and the pseudo-instructions
of R88. A Frame operand is written as command, flags and payload, its `len` being the payload's length. -/
inductive AsmLine where
  | sdProcess (b : Byte)
  | sdReset
  | sdState
  | crcInit
  | crcUpdate (b : Byte)
  | crcRead
  | crcTable (i : Byte)
  | checksum (s : List Byte)
  | verify (buf : List Byte)
  | packStatus (f : Byte)
  | packStatusF (f : Byte)
  | unpackStatus (s : Byte)
  | encode (command flags : Byte) (payload : List Byte)
  | encodeF (command flags : Byte) (payload : List Byte)
  | decode (buf : List Byte)
  /-- `FEED b0, ..., bk`. -/
  | feed (bs : List Byte)
  /-- `CRC.BYTES b0, ..., bk`. -/
  | crcBytes (bs : List Byte)
  /-- `CRC.OF [b0, ..., bk]`. -/
  | crcOf (bs : List Byte)
  deriving DecidableEq, Repr

/-- The Frame operand of an `ENCODE` line, with `len = len(payload)` (R87). A payload above 255 bytes, which
no line of text gives, makes an operand that the port refuses (I1; log entry 12). -/
def asmFrame (command flags : Byte) (payload : List Byte) : FrameOperand :=
  { command := command, flags := flags, len := BitVec.ofNat 8 payload.length, payload := payload }

/-- The commands a line stands for (R87, R88). -/
def AsmLine.expand : AsmLine → List Instr
  | .sdProcess b => [.sdProcess b]
  | .sdReset => [.sdReset]
  | .sdState => [.sdState]
  | .crcInit => [.crcInit]
  | .crcUpdate b => [.crcUpdate b]
  | .crcRead => [.crcRead]
  | .crcTable i => [.crcTable i]
  | .checksum s => [.checksum s]
  | .verify buf => [.verify buf]
  | .packStatus f => [.packStatus false f]
  | .packStatusF f => [.packStatus true f]
  | .unpackStatus s => [.unpackStatus s]
  | .encode c f p => [.encode false (asmFrame c f p)]
  | .encodeF c f p => [.encode true (asmFrame c f p)]
  | .decode buf => [.decode buf]
  | .feed bs => bs.map .sdProcess
  | .crcBytes bs => bs.map .crcUpdate
  | .crcOf bs => .crcInit :: (bs.map .crcUpdate ++ [.crcRead])

/-- The input by which the host issues a command: its word and operand. -/
def Input.ofInstr (i : Instr) : Input := .command (Sys2Proof.encode i).1 (Sys2Proof.encode i).2

/-- The inputs by which the host issues a line. -/
def AsmLine.inputs (l : AsmLine) : List Input := l.expand.map Input.ofInstr

/-- `FEED`: the inputs of `SD.PROCESS b` for each byte, in order (R88). -/
def feedInputs (bs : List Byte) : List Input := bs.map fun b => Input.ofInstr (.sdProcess b)

end Sys2Proof.Machine
end

