-- ==== Sys2Proof/Machine/AsmText.lean ====
section
/-! DEFINITION. Reading a line of assembly text (spec/30_encoding.md R87, R88): `;` starts a comment,
numbers are `0x` hexadecimal or decimal and each is 0 to 255. Blanks and tabs separate words (log entry
18). -/

namespace Sys2Proof.Machine

/-- A word, a number or a punctuation mark of a line. -/
inductive Token where
  | word (cs : List Char)
  | num (n : Nat)
  | mark (c : Char)
  deriving DecidableEq, Repr

/-- The value of a decimal or hexadecimal digit; both letter cases are read. -/
def digitVal (c : Char) : Option Nat :=
  if '0'.toNat ≤ c.toNat ∧ c.toNat ≤ '9'.toNat then some (c.toNat - '0'.toNat)
  else if 'A'.toNat ≤ c.toNat ∧ c.toNat ≤ 'F'.toNat then some (c.toNat - 'A'.toNat + 10)
  else if 'a'.toNat ≤ c.toNat ∧ c.toNat ≤ 'f'.toNat then some (c.toNat - 'a'.toNat + 10)
  else none

/-- The number that digits in the given base spell, continued from `acc`. -/
def digitsFrom (base : Nat) : Nat → List Char → Option Nat
  | acc, [] => some acc
  | acc, c :: cs =>
    match digitVal c with
    | some d => if d < base then digitsFrom base (acc * base + d) cs else none
    | none => none

/-- A number, written `0x` hexadecimal or decimal (R87). -/
def parseNumber : List Char → Option Nat
  | '0' :: 'x' :: c :: cs => digitsFrom 16 0 (c :: cs)
  | c :: cs => digitsFrom 10 0 (c :: cs)
  | [] => none

/-- The token that a finished run of word characters (held in reverse) is. -/
def finishWord (rev : List Char) : Option (List Token) :=
  match rev.reverse with
  | [] => some []
  | c :: cs =>
    if '0'.toNat ≤ c.toNat ∧ c.toNat ≤ '9'.toNat then
      match parseNumber (c :: cs) with
      | some n => some [.num n]
      | none => none
    else some [.word (c :: cs)]

/-- The punctuation of R87: brackets, comma, equals sign, and the two braces by their code points. -/
def isMark (c : Char) : Bool :=
  c = '[' || c = ']' || c = ',' || c = '=' || c.toNat = 123 || c.toNat = 125

/-- The tokens of a line. -/
def lexLine : List Char → List Char → Option (List Token)
  | rev, [] => finishWord rev
  | rev, c :: cs =>
    if c = ';' then finishWord rev
    else if c = ' ' ∨ c = '\t' ∨ c = '\r' then
      match finishWord rev, lexLine [] cs with
      | some t, some ts => some (t ++ ts)
      | _, _ => none
    else if isMark c then
      match finishWord rev, lexLine [] cs with
      | some t, some ts => some (t ++ .mark c :: ts)
      | _, _ => none
    else lexLine (c :: rev) cs

/-- A number from 0 to 255 as a byte (R87). -/
def toByte? (n : Nat) : Option Byte := if n < 256 then some (BitVec.ofNat 8 n) else none

/-- `b0, b1, ..., bk`, at least one byte, and the tokens after it. -/
def parseBytes : List Token → Option (List Byte × List Token)
  | .num n :: .mark ',' :: ts =>
    match toByte? n, parseBytes ts with
    | some b, some (bs, rest) => some (b :: bs, rest)
    | _, _ => none
  | .num n :: ts =>
    match toByte? n with
    | some b => some ([b], ts)
    | none => none
  | _ => none

/-- `[b0, b1, ...]`, possibly empty, and the tokens after it. -/
def parseList : List Token → Option (List Byte × List Token)
  | .mark '[' :: .mark ']' :: ts => some ([], ts)
  | .mark '[' :: ts =>
    match parseBytes ts with
    | some (bs, .mark ']' :: rest) => some (bs, rest)
    | _ => none
  | _ => none

/-- A line's only operand: one byte. -/
def oneByte (ts : List Token) (k : Byte → AsmLine) : Option AsmLine :=
  match ts with
  | [.num n] => (toByte? n).map k
  | _ => none

/-- A line's only operand: a bracketed list. -/
def oneList (ts : List Token) (k : List Byte → AsmLine) : Option AsmLine :=
  match parseList ts with
  | some (bs, []) => some (k bs)
  | _ => none

/-- A line's only operand: bytes separated by commas. -/
def commaBytes (ts : List Token) (k : List Byte → AsmLine) : Option AsmLine :=
  match parseBytes ts with
  | some (bs, []) => some (k bs)
  | _ => none

/-- A line without operands. -/
def noOperand (ts : List Token) (l : AsmLine) : Option AsmLine :=
  match ts with
  | [] => some l
  | _ => none

/-- The Frame operand in braces, `command=c, flags=f, payload=[...]`, of at most 255 payload bytes. -/
def oneFrame (ts : List Token) (k : Byte → Byte → List Byte → AsmLine) : Option AsmLine :=
  match ts with
  | .mark o :: .word w1 :: .mark '=' :: .num c :: .mark ',' :: .word w2 :: .mark '=' :: .num f ::
      .mark ',' :: .word w3 :: .mark '=' :: rest =>
    if o.toNat = 123 ∧ w1 = "command".toList ∧ w2 = "flags".toList ∧ w3 = "payload".toList then
      match toByte? c, toByte? f, parseList rest with
      | some cb, some fb, some (p, [.mark e]) =>
        if e.toNat = 125 ∧ p.length ≤ Config.maxPayload then some (k cb fb p) else none
      | _, _, _ => none
    else none
  | _ => none

/-- The line that a mnemonic and its operand tokens are (R87, R88). -/
def parseOperands (m : List Char) (ts : List Token) : Option AsmLine :=
  if m = "SD.PROCESS".toList then oneByte ts .sdProcess
  else if m = "SD.RESET".toList then noOperand ts .sdReset
  else if m = "SD.STATE".toList then noOperand ts .sdState
  else if m = "CRC.INIT".toList then noOperand ts .crcInit
  else if m = "CRC.UPDATE".toList then oneByte ts .crcUpdate
  else if m = "CRC.READ".toList then noOperand ts .crcRead
  else if m = "CRC.TABLE".toList then oneByte ts .crcTable
  else if m = "CHECKSUM".toList then oneList ts .checksum
  else if m = "VERIFY".toList then oneList ts .verify
  else if m = "PACK.STATUS".toList then oneByte ts .packStatus
  else if m = "PACK.STATUS.F".toList then oneByte ts .packStatusF
  else if m = "UNPACK.STATUS".toList then oneByte ts .unpackStatus
  else if m = "ENCODE".toList then oneFrame ts .encode
  else if m = "ENCODE.F".toList then oneFrame ts .encodeF
  else if m = "DECODE".toList then oneList ts .decode
  else if m = "FEED".toList then commaBytes ts .feed
  else if m = "CRC.BYTES".toList then commaBytes ts .crcBytes
  else if m = "CRC.OF".toList then oneList ts .crcOf
  else none

/-- The commands of one line of text: none for a blank or comment line, and `none` for text that is no
line of R87 or R88. -/
def assembleLine (line : List Char) : Option (List Instr) :=
  match lexLine [] line with
  | some [] => some []
  | some (.word m :: ts) => (parseOperands m ts).map AsmLine.expand
  | _ => none

end Sys2Proof.Machine
end

