-- ==== Sys2Proof/Safety.lean ====
section
/-! DEFINITION. The terms claims are stated in: the invariant of spec/10_state.md R31, inputs the port can
carry, runs that collect their responses, and the classes of commands of spec/20_memory.md R60. -/

namespace Sys2Proof.Machine

/-! ## The invariant (R31) -/

/-- `SD_ACC[4][7]`, bit 7 of the accepted status byte (R31). -/
abbrev accExpects (s : State) : Bool := s.sdAcc[4].getLsbD 7

/-- `L = SD_ACC[6]`, the length byte (R31). -/
abbrev accLength (s : State) : Nat := s.sdAcc[6].toNat

/-- The table of R31, one line per row, and no state value above 9. -/
abbrev SyncTable (s : State) : Prop :=
  (s.sdState = 0 → s.sdCnt = 0 ∧ s.sdRem = 0 ∧ s.sdExp = false) ∧
  ((1 ≤ s.sdState.toNat ∧ s.sdState.toNat ≤ 4) →
    s.sdCnt.toNat = s.sdState.toNat ∧ s.sdRem = 0 ∧ s.sdExp = false) ∧
  (s.sdState = 5 → s.sdCnt = 5 ∧ s.sdRem = 0 ∧ s.sdExp = accExpects s) ∧
  (s.sdState = 6 → s.sdCnt = 6 ∧ s.sdRem = 0 ∧ s.sdExp = accExpects s) ∧
  (s.sdState = 7 →
    1 ≤ s.sdRem.toNat ∧ s.sdRem.toNat ≤ accLength s ∧
    s.sdCnt.toNat = 7 + accLength s - s.sdRem.toNat ∧ s.sdExp = accExpects s) ∧
  (s.sdState = 8 → s.sdCnt.toNat = 7 + accLength s ∧ s.sdRem = 0 ∧ s.sdExp = accExpects s) ∧
  (s.sdState = 9 → s.sdCnt.toNat = 8 + accLength s ∧ s.sdRem = 0 ∧ s.sdExp = accExpects s) ∧
  s.sdState.toNat ≤ 9

/-- The held bytes begin as the preamble does, as far as they go. With `SD_CNT >= 4` this is R31's
"`SD_ACC[0..4) = [0x55, 0x55, 0x42, 0x42]`"; the shorter prefixes are what R174 to R177 add. -/
abbrev PreambleHeld (s : State) : Prop :=
  (accBuffer s).take 4 = Config.sync.take s.sdCnt.toNat

/-- A held status byte is no illegal request: R179 drops every other. -/
abbrev StatusAccepted (s : State) : Prop := 5 ≤ s.sdCnt.toNat → illegalRequest s.sdAcc[4] = false

/-- What holds between commands in every state a run from reset reaches. -/
abbrev Inv (s : State) : Prop := SyncTable s ∧ PreambleHeld s ∧ StatusAccepted s

/-! ## Inputs and runs -/

/-- An input the port can carry (R70, I1, I11). -/
def Input.presentable : Input → Bool
  | .command _ o => o.presentable
  | .blockReset => true

/-- Every pending input can be presented. -/
abbrev InputsPresentable (s : State) : Prop := ∀ inp ∈ s.inputs, inp.presentable = true

/-- `n` steps, with the responses they give in order; `none` when a step stops. -/
def collect : Nat → State → Option (List Response × State)
  | 0, s => some ([], s)
  | n + 1, s =>
    match step s with
    | .next t =>
      match collect n t with
      | some (rs, u) => some (t.resp.toList ++ rs, u)
      | none => none
    | .fault _ => none
    | .refused _ => none

/-- The stream-sync unit at rest: what `sd_reset()` leaves (R173). -/
abbrev AtRest (s : State) : Prop :=
  s.sdState = 0 ∧ s.sdCnt = 0 ∧ s.sdRem = 0 ∧ s.sdExp = false

/-- Two states that agree on everything but the entries of `SD_ACC` at or beyond `SD_CNT`, which "hold no
meaning" (R27). -/
def SameButUnusedAcc (s t : State) : Prop :=
  accBuffer s = accBuffer t ∧ t = { s with sdAcc := t.sdAcc }

/-! ## Classes of commands (R60) -/

/-- "Commands with no side effects" (R60). -/
def isPure : Instr → Bool
  | .sdState => true
  | .crcRead => true
  | .crcTable _ => true
  | .checksum _ => true
  | .verify _ => true
  | .packStatus _ _ => true
  | .unpackStatus _ => true
  | .encode _ _ => true
  | .decode _ => true
  | .sdProcess _ => false
  | .sdReset => false
  | .crcInit => false
  | .crcUpdate _ => false

/-- The commands that write the `CRC` register (R33). -/
def writesCrc : Instr → Bool
  | .crcInit => true
  | .crcUpdate _ => true
  | .sdProcess _ => false
  | .sdReset => false
  | .sdState => false
  | .crcRead => false
  | .crcTable _ => false
  | .checksum _ => false
  | .verify _ => false
  | .packStatus _ _ => false
  | .unpackStatus _ => false
  | .encode _ _ => false
  | .decode _ => false

/-- The commands that write the stream-sync registers (R26 to R30). -/
def writesSync : Instr → Bool
  | .sdProcess _ => true
  | .sdReset => true
  | .sdState => false
  | .crcInit => false
  | .crcUpdate _ => false
  | .crcRead => false
  | .crcTable _ => false
  | .checksum _ => false
  | .verify _ => false
  | .packStatus _ _ => false
  | .unpackStatus _ => false
  | .encode _ _ => false
  | .decode _ => false

end Sys2Proof.Machine
end

