-- ==== Sys2Proof/Certificates/Slice0/Obligations.lean ====
section
/-! DEFINITION. The statements for the provers, one `def Obligations.<Name> : Prop` each. Where a clause
rests on a choice of the model and not on a rule, the docstring says so and names the log entry. -/

open Sys2Proof Sys2Proof.Machine

/-- The outcome is the state `s` with the response `r` and nothing else changed. -/
def OnlyResponds (o : Host.Outcome State Fault Refusal) (s : State) (r : Response) : Prop :=
  o = .next { s with resp := some r }

/-! ## The command port -/

/-- "When the oldest pending input is a command that decodes, a step runs it" (R56, R70, R80). The queue
of pending inputs is the model's (log entry 1). -/
def Obligations.StepRunsTheDecodedCommand : Prop :=
  ∀ (s : State) (w : Word) (o : Operand) (rest : List Input) (i : Instr),
    s.inputs = .command w o :: rest → o.presentable = true → Sys2Proof.decode w o = .ok i →
    step s = exec i { s with inputs := rest }

/-- With no pending input the block waits (R52, R252); that a step then changes nothing is the model's
form of waiting (log entry 3). -/
def Obligations.EmptyPortWaits : Prop :=
  ∀ s : State, s.inputs = [] → step s = .next s

/-- The operand kind that R73 names for each `OP`. -/
def operandKindOf (op : Nat) : OperandKind :=
  if op = 8 ∨ op = 9 ∨ op = 13 then .bytes else if op = 12 then .frame else .none

/-- R80's list of illegal commands, in terms of the fields of the word alone. -/
abbrev IllegalByFields (w : Word) (o : Operand) : Prop :=
  (opField w).toNat = 0 ∨ (opField w).toNat = 14 ∨ (opField w).toNat = 15 ∨
    zField w ≠ 0 ∨
    (forceField w = true ∧ (opField w).toNat ≠ 10 ∧ (opField w).toNat ≠ 12) ∨
    (dField w ≠ 0 ∧ (opField w).toNat ∈ [2, 3, 4, 6, 8, 9, 12, 13]) ∨
    o.kind ≠ operandKindOf (opField w).toNat

/-- A command is illegal exactly by R80's list, and then it responds `ILLEGAL_COMMAND` and changes no
state (R80, R222). -/
def Obligations.IllegalCommandsChangeNothing : Prop :=
  (∀ (w : Word) (o : Operand),
    (∃ e, Sys2Proof.decode w o = .error e) ↔ IllegalByFields w o) ∧
  ∀ (s : State) (w : Word) (o : Operand) (rest : List Input),
    s.inputs = .command w o :: rest → o.presentable = true → IllegalByFields w o →
    step s = .next { s with inputs := rest, resp := some { err := .illegalCommand } }

/-- R74: legal exactly by one row of the match and mask table, whose mnemonic the command has; no two rows
match one word. -/
def Obligations.LegalExactlyByOneTableRow : Prop :=
  (∀ (w : Word) (o : Operand),
    (∃ i, Sys2Proof.decode w o = .ok i) ↔ ∃ r ∈ commandTable, r.accepts w o = true) ∧
  (∀ (w : Word) (o : Operand) (i : Instr), Sys2Proof.decode w o = .ok i →
    ∃ r ∈ commandTable, r.accepts w o = true ∧ r.mnemonic = i.mnemonic) ∧
  commandTable.Pairwise fun r q =>
    ∀ w : Word, ¬ (w &&& r.mask = r.matchBits ∧ w &&& q.mask = q.matchBits)

/-- Decoding the encoding of any command gives it back; of a well-formed command, the operand can be
presented. -/
def Obligations.DecodeOfEncode : Prop :=
  ∀ i : Instr,
    Sys2Proof.decode (Sys2Proof.encode i).1 (Sys2Proof.encode i).2 = .ok i ∧
      (i.wf = true → (Sys2Proof.encode i).2.presentable = true)

/-- Each legal word has one meaning: the command it decodes to encodes to that word and operand, and is
well formed when the operand can be presented. -/
def Obligations.EncodeOfDecode : Prop :=
  ∀ (w : Word) (o : Operand) (i : Instr), Sys2Proof.decode w o = .ok i →
    Sys2Proof.encode i = (w, o) ∧ (o.presentable = true → i.wf = true)

/-- Words written out from R71 and R73, one or two of each unit. -/
def Obligations.WrittenOutWordsDecode : Prop :=
  Sys2Proof.decode 0b0001000001010101 .none = .ok (.sdProcess 0x55) ∧
  Sys2Proof.decode 0b0010000000000000 .none = .ok .sdReset ∧
  Sys2Proof.decode 0b0101000001000010 .none = .ok (.crcUpdate 0x42) ∧
  Sys2Proof.decode 0b1001000000000000 (.bytes [0x55]) = .ok (.verify [0x55]) ∧
  Sys2Proof.decode 0b1010100010000100 .none = .ok (.packStatus true 0x84) ∧
  Sys2Proof.decode 0b1100100000000000 (.frame ⟨0x01, 0x00, 0, []⟩) =
    .ok (.encode true ⟨0x01, 0x00, 0, []⟩)

/-- The command words of R87's table, as it writes them. An `ENCODE` line has at most 255 payload bytes: a
longer payload cannot be written down (R34, N15). -/
def Obligations.AssemblerWords : Prop :=
  (∀ (b : Byte) (bs : List Byte),
    (AsmLine.sdProcess b).inputs = [.command (0x1000 ||| b.setWidth 16) .none] ∧
    AsmLine.sdReset.inputs = [.command 0x2000 .none] ∧
    AsmLine.sdState.inputs = [.command 0x3000 .none] ∧
    AsmLine.crcInit.inputs = [.command 0x4000 .none] ∧
    (AsmLine.crcUpdate b).inputs = [.command (0x5000 ||| b.setWidth 16) .none] ∧
    AsmLine.crcRead.inputs = [.command 0x6000 .none] ∧
    (AsmLine.crcTable b).inputs = [.command (0x7000 ||| b.setWidth 16) .none] ∧
    (AsmLine.checksum bs).inputs = [.command 0x8000 (.bytes bs)] ∧
    (AsmLine.verify bs).inputs = [.command 0x9000 (.bytes bs)] ∧
    (AsmLine.packStatus b).inputs = [.command (0xA000 ||| b.setWidth 16) .none] ∧
    (AsmLine.packStatusF b).inputs = [.command (0xA800 ||| b.setWidth 16) .none] ∧
    (AsmLine.unpackStatus b).inputs = [.command (0xB000 ||| b.setWidth 16) .none] ∧
    (AsmLine.decode bs).inputs = [.command 0xD000 (.bytes bs)]) ∧
  ∀ (c f : Byte) (p : List Byte), p.length ≤ 255 →
    ∃ n : Byte, n.toNat = p.length ∧
      (AsmLine.encode c f p).inputs = [.command 0xC000 (.frame ⟨c, f, n, p⟩)] ∧
      (AsmLine.encodeF c f p).inputs = [.command 0xC800 (.frame ⟨c, f, n, p⟩)]

/-- An operand that cannot be presented is refused by name, whatever the word, an illegal one included. I1
and I11 say `refuse`; that a step takes such a command at all and stops with this outcome is the model's
choice (log entry 12), and so is its standing before the test of R80 (log entry 13). -/
def Obligations.UnpresentableOperandsAreRefused : Prop :=
  (∀ (s : State) (w : Word) (bs : List Byte) (rest : List Input),
    s.inputs = .command w (.bytes bs) :: rest → 264 < bs.length →
    step s = .refused .operandTooLong) ∧
  ∀ (s : State) (w : Word) (fr : FrameOperand) (rest : List Input),
    s.inputs = .command w (.frame fr) :: rest → fr.payload.length ≠ fr.len.toNat →
    step s = .refused .payloadNotLen

/-- The numeric codes of R77, R78 and R79; code 3 of the tri-state and of the diagnostic is never
produced. -/
def Obligations.ResponseCodes : Prop :=
  (ErrCode.none.code = 0 ∧ ErrCode.illegalCommand.code = 1 ∧ ErrCode.tooShort.code = 2 ∧
    ErrCode.lengthMismatch.code = 3) ∧
  (Tri.unknown.code = 0 ∧ Tri.valid.code = 1 ∧ Tri.invalid.code = 2 ∧ ∀ t : Tri, t.code ≠ 3) ∧
  (Diag.none.code = 0 ∧ Diag.syncMismatch.code = 1 ∧ Diag.unexpectedState.code = 2 ∧
    ∀ d : Diag, d.code ≠ 3)

/-! ## Reset and the invariant -/

/-- The block reset leaves what R250 gives: as the state after power-on, and as an input taken between
commands. Two clauses are the model's and no rule of the spec: inputs behind a reset are kept (log entry 2),
and `resp` holds `none` because a reset gives no response (log entry 4). -/
def Obligations.BlockResetLeavesSpecValues : Prop :=
  (State.reset.sdState = 0 ∧ State.reset.sdCnt = 0 ∧ State.reset.sdRem = 0 ∧
    State.reset.sdExp = false ∧ State.reset.crc = 0x1D0F ∧ State.reset.resp = none) ∧
  ∀ (s : State) (rest : List Input), s.inputs = .blockReset :: rest →
    ∃ t, step s = .next t ∧ t.sdState = 0 ∧ t.sdCnt = 0 ∧ t.sdRem = 0 ∧ t.sdExp = false ∧
      t.crc = 0x1D0F ∧ t.resp = none ∧ t.inputs = rest

/-- The invariant holds right after reset. -/
def Obligations.ResetMeetsInvariant : Prop := Inv State.reset

/-- R31: between commands the stream-sync state satisfies the table, the held bytes begin as the preamble
does, and so `SD_CNT <= 263` before any SD.PROCESS. `Inv` adds to R31 that shorter prefixes match too and
that a held status byte is no illegal request. -/
def Obligations.StepKeepsInvariant : Prop :=
  (∀ s t : State, Inv s → step s = .next t → Inv t) ∧ ∀ s : State, Inv s → s.sdCnt.toNat ≤ 263

/-- No step stops: from every state that meets the invariant and whose pending inputs can be presented, a
step answers a next state that meets both again. -/
def Obligations.StepNeverStops : Prop :=
  ∀ s : State, Inv s → InputsPresentable s →
    ∃ t, step s = .next t ∧ Inv t ∧ InputsPresentable t

/-- R189: at state 9 the completed buffer has `9 + SD_ACC[6]` bytes and its decode never fails. -/
def Obligations.AccumulatedFrameAlwaysDecodes : Prop :=
  ∀ (s : State) (b : Byte), Inv s → s.sdState = 9 →
    (append b s).sdCnt.toNat = 9 + (append b s).sdAcc[6].toNat ∧
    ∃ fr, decodeFrame (accBuffer (append b s)) = .ok fr

/-! ## The CRC unit -/

/-- The entries of R101, rows `0x00` to `0x38`. -/
def crcListing0 : List Word :=
  [0x0000, 0x1021, 0x2042, 0x3063, 0x4084, 0x50A5, 0x60C6, 0x70E7,
   0x8108, 0x9129, 0xA14A, 0xB16B, 0xC18C, 0xD1AD, 0xE1CE, 0xF1EF,
   0x1231, 0x0210, 0x3273, 0x2252, 0x52B5, 0x4294, 0x72F7, 0x62D6,
   0x9339, 0x8318, 0xB37B, 0xA35A, 0xD3BD, 0xC39C, 0xF3FF, 0xE3DE,
   0x2462, 0x3443, 0x0420, 0x1401, 0x64E6, 0x74C7, 0x44A4, 0x5485,
   0xA56A, 0xB54B, 0x8528, 0x9509, 0xE5EE, 0xF5CF, 0xC5AC, 0xD58D,
   0x3653, 0x2672, 0x1611, 0x0630, 0x76D7, 0x66F6, 0x5695, 0x46B4,
   0xB75B, 0xA77A, 0x9719, 0x8738, 0xF7DF, 0xE7FE, 0xD79D, 0xC7BC]

/-- The entries of R101, rows `0x40` to `0x78`. -/
def crcListing1 : List Word :=
  [0x48C4, 0x58E5, 0x6886, 0x78A7, 0x0840, 0x1861, 0x2802, 0x3823,
   0xC9CC, 0xD9ED, 0xE98E, 0xF9AF, 0x8948, 0x9969, 0xA90A, 0xB92B,
   0x5AF5, 0x4AD4, 0x7AB7, 0x6A96, 0x1A71, 0x0A50, 0x3A33, 0x2A12,
   0xDBFD, 0xCBDC, 0xFBBF, 0xEB9E, 0x9B79, 0x8B58, 0xBB3B, 0xAB1A,
   0x6CA6, 0x7C87, 0x4CE4, 0x5CC5, 0x2C22, 0x3C03, 0x0C60, 0x1C41,
   0xEDAE, 0xFD8F, 0xCDEC, 0xDDCD, 0xAD2A, 0xBD0B, 0x8D68, 0x9D49,
   0x7E97, 0x6EB6, 0x5ED5, 0x4EF4, 0x3E13, 0x2E32, 0x1E51, 0x0E70,
   0xFF9F, 0xEFBE, 0xDFDD, 0xCFFC, 0xBF1B, 0xAF3A, 0x9F59, 0x8F78]

/-- The entries of R101, rows `0x80` to `0xB8`. -/
def crcListing2 : List Word :=
  [0x9188, 0x81A9, 0xB1CA, 0xA1EB, 0xD10C, 0xC12D, 0xF14E, 0xE16F,
   0x1080, 0x00A1, 0x30C2, 0x20E3, 0x5004, 0x4025, 0x7046, 0x6067,
   0x83B9, 0x9398, 0xA3FB, 0xB3DA, 0xC33D, 0xD31C, 0xE37F, 0xF35E,
   0x02B1, 0x1290, 0x22F3, 0x32D2, 0x4235, 0x5214, 0x6277, 0x7256,
   0xB5EA, 0xA5CB, 0x95A8, 0x8589, 0xF56E, 0xE54F, 0xD52C, 0xC50D,
   0x34E2, 0x24C3, 0x14A0, 0x0481, 0x7466, 0x6447, 0x5424, 0x4405,
   0xA7DB, 0xB7FA, 0x8799, 0x97B8, 0xE75F, 0xF77E, 0xC71D, 0xD73C,
   0x26D3, 0x36F2, 0x0691, 0x16B0, 0x6657, 0x7676, 0x4615, 0x5634]

/-- The entries of R101, rows `0xC0` to `0xF8`. -/
def crcListing3 : List Word :=
  [0xD94C, 0xC96D, 0xF90E, 0xE92F, 0x99C8, 0x89E9, 0xB98A, 0xA9AB,
   0x5844, 0x4865, 0x7806, 0x6827, 0x18C0, 0x08E1, 0x3882, 0x28A3,
   0xCB7D, 0xDB5C, 0xEB3F, 0xFB1E, 0x8BF9, 0x9BD8, 0xABBB, 0xBB9A,
   0x4A75, 0x5A54, 0x6A37, 0x7A16, 0x0AF1, 0x1AD0, 0x2AB3, 0x3A92,
   0xFD2E, 0xED0F, 0xDD6C, 0xCD4D, 0xBDAA, 0xAD8B, 0x9DE8, 0x8DC9,
   0x7C26, 0x6C07, 0x5C64, 0x4C45, 0x3CA2, 0x2C83, 0x1CE0, 0x0CC1,
   0xEF1F, 0xFF3E, 0xCF5D, 0xDF7C, 0xAF9B, 0xBFBA, 0x8FD9, 0x9FF8,
   0x6E17, 0x7E36, 0x4E55, 0x5E74, 0x2E93, 0x3EB2, 0x0ED1, 0x1EF0]

/-- The listing of R101. -/
def crcListing : List Word := crcListing0 ++ crcListing1 ++ crcListing2 ++ crcListing3

/-- R101: the listing has 256 entries and entry `i` is `crc_table(i)`. -/
def Obligations.CrcTableListing : Prop :=
  crcListing.length = 256 ∧ ∀ i : Byte, crcListing[i.toNat]? = some (crcTable i)

/-- R102: the index is `c[15:8] XOR b`, and a step is 8 rounds of the bit-serial update started from
`c XOR (b << 8)`. -/
def Obligations.CrcStepIsBitSerial : Prop :=
  ∀ (c : Word) (b : Byte),
    crcStep c b = (c <<< 8) ^^^ crcTable (c.extractLsb' 8 8 ^^^ b) ∧
    crcStep c b = crcRounds 8 (c ^^^ (b.setWidth 16 <<< 8))

/-- R103 and R104: `crc16` starts at the seed and applies `crc_step` to each byte in order; `checksum` is
its value, most significant byte first. -/
def Obligations.ChecksumFoldsFromTheSeed : Prop :=
  crc16 [] = 0x1D0F ∧
  (∀ (s : List Byte) (b : Byte), crc16 (s ++ [b]) = crcStep (crc16 s) b) ∧
  ∀ s : List Byte,
    checksum s = [(crc16 s).extractLsb' 8 8, (crc16 s).extractLsb' 0 8] ∧
    ∃ h l, checksum s = [h, l] ∧ fromBe16 h l = crc16 s

/-- R105. -/
def Obligations.CrcInitSeedsCrc : Prop :=
  Sys2Proof.decode 0x4000 .none = .ok .crcInit ∧
  (∀ s : State, exec .crcInit s = .next { s with crc := 0x1D0F, resp := some {} }) ∧
  ∀ s t : State, exec .crcInit s = .next t →
    exec .crcInit t = .next t ∧ exec .crcRead t = .next { t with resp := some { data16 := 0x1D0F } }

/-- R106. -/
def Obligations.CrcTableReadsOneEntry : Prop :=
  (∀ i : Byte, Sys2Proof.decode (0x7000 ||| i.setWidth 16) .none = .ok (.crcTable i)) ∧
  (∀ (i : Byte) (s : State),
    OnlyResponds (exec (.crcTable i) s) s { data16 := crcTable i }) ∧
  crcTable 0 = 0x0000 ∧ crcTable 0x5F = 0xAB1A

/-- R107: the register takes `crc_step(CRC, b)` and nothing else changes; `0x0000` and `0xF01F` are the
only fixed points of the byte `0x00`. -/
def Obligations.CrcUpdateFoldsOneByte : Prop :=
  (∀ b : Byte, Sys2Proof.decode (0x5000 ||| b.setWidth 16) .none = .ok (.crcUpdate b)) ∧
  (∀ (b : Byte) (s : State),
    exec (.crcUpdate b) s = .next { s with crc := crcStep s.crc b, resp := some {} }) ∧
  (∀ c : Word, crcStep c 0x00 = c ↔ c = 0x0000 ∨ c = 0xF01F) ∧
  crcStep 0x1D0F 0x00 = 0xCC9C ∧ crcStep 0x1D0F 0x42 = 0xA41A

/-- R108, with R33's value after reset. -/
def Obligations.CrcReadReturnsCrc : Prop :=
  Sys2Proof.decode 0x6000 .none = .ok .crcRead ∧
  (∀ s : State, OnlyResponds (exec .crcRead s) s { data16 := s.crc }) ∧
  exec .crcRead State.reset = .next { State.reset with resp := some { data16 := 0x1D0F } } ∧
  (∀ bs : List Byte, be16 (crcFold 0x1D0F bs) = checksum bs) ∧
  crcFold 0x1D0F [0x42, 0x42, 0x80, 0x01, 0x00] = 0x2FBA

/-- R109. -/
def Obligations.ChecksumLeavesCrcAlone : Prop :=
  (∀ bs : List Byte, Sys2Proof.decode 0x8000 (.bytes bs) = .ok (.checksum bs)) ∧
  (∀ (bs : List Byte) (s : State),
    OnlyResponds (exec (.checksum bs) s) s { data16 := crc16 bs, bytes := checksum bs }) ∧
  (crc16 [] = 0x1D0F ∧ checksum [] = [0x1D, 0x0F]) ∧
  crc16 [0x31, 0x32, 0x33, 0x34, 0x35, 0x36, 0x37, 0x38, 0x39] = 0xE5CC

/-- R112, with `verify` as R111 gives it and the precedence of R226. -/
def Obligations.VerifyChecksTheTrailer : Prop :=
  (∀ buf : List Byte, Sys2Proof.decode 0x9000 (.bytes buf) = .ok (.verify buf)) ∧
  ∀ (buf : List Byte) (s : State),
    (buf.length < 9 → OnlyResponds (exec (.verify buf) s) s { err := .tooShort }) ∧
    (9 ≤ buf.length → (byteAt buf 6).toNat ≠ buf.length - 9 →
      OnlyResponds (exec (.verify buf) s) s { err := .lengthMismatch }) ∧
    (9 ≤ buf.length → (byteAt buf 6).toNat = buf.length - 9 →
      ((byteAt buf 4).getLsbD 7 = false → OnlyResponds (exec (.verify buf) s) s { tri := .unknown }) ∧
      ((byteAt buf 4).getLsbD 7 = true →
        checksum (slice buf 2 (buf.length - 2)) = slice buf (buf.length - 2) buf.length →
        OnlyResponds (exec (.verify buf) s) s { tri := .valid }) ∧
      ((byteAt buf 4).getLsbD 7 = true →
        checksum (slice buf 2 (buf.length - 2)) ≠ slice buf (buf.length - 2) buf.length →
        OnlyResponds (exec (.verify buf) s) s { tri := .invalid }))

/-- R110 and R33: only CRC.INIT and CRC.UPDATE write `CRC`, and of the others only CRC.READ reads it. -/
def Obligations.CrcIsPrivateToItsCommands : Prop :=
  (∀ (i : Instr) (s t : State), writesCrc i = false → exec i s = .next t → t.crc = s.crc) ∧
  ∀ (i : Instr) (s t : State) (c : Word), writesCrc i = false → i ≠ .crcRead →
    exec i s = .next t → exec i { s with crc := c } = .next { t with crc := c }

/-- R88: the pseudo-instructions expand in order, and `CRC.OF` ends with the `data16` of CHECKSUM but
writes `CRC`. -/
def Obligations.PseudoInstructionsExpand : Prop :=
  (∀ bs : List Byte, (AsmLine.feed bs).expand = bs.map .sdProcess) ∧
  (∀ bs : List Byte, (AsmLine.crcBytes bs).expand = bs.map .crcUpdate) ∧
  (∀ bs : List Byte,
    (AsmLine.crcOf bs).expand = [.crcInit] ++ (AsmLine.crcBytes bs).expand ++ [.crcRead]) ∧
  ∀ (bs : List Byte) (s : State), s.inputs = (AsmLine.crcOf bs).inputs →
    ∃ rs t, collect (bs.length + 2) s = some (rs, t) ∧
      rs.getLast? = some { data16 := crc16 bs } ∧ t.crc = crc16 bs ∧ t.inputs = [] ∧
      t.sdState = s.sdState ∧ t.sdAcc = s.sdAcc ∧ t.sdCnt = s.sdCnt ∧ t.sdRem = s.sdRem ∧
      t.sdExp = s.sdExp

/-- The verifier detects every change of a single byte that it covers: sync bytes 3 and 4, the status
byte if its bit 7 stays set, the command, the payload and the trailer. -/
def Obligations.SingleByteChangeIsDetected : Prop :=
  ∀ (buf : List Byte) (k : Nat) (b : Byte), verifyBuffer buf = .ok .valid →
    2 ≤ k → k ≠ 6 → k < buf.length → byteAt buf k ≠ b → (k = 4 → b.getLsbD 7 = true) →
    verifyBuffer (buf.set k b) = .ok .invalid

/-! ## The frame codec -/

/-- R130's closed forms, for both values of `P_CNV_OVERWRITE`, and its two remarks on bit 5. -/
def Obligations.PackStatusClosedForm : Prop :=
  ∀ (p : Config.Params) (f : Byte) (force : Bool),
    (p.cnvOverwrite = .all → f.getLsbD 2 = true → packStatus p f force = 0x04) ∧
    (p.cnvOverwrite = .inOrder → f.getLsbD 2 = true → packStatus p f force = 0x04 ||| (f &&& 0x03)) ∧
    (f.getLsbD 2 = false →
      packStatus p f force = (f &&& 0xDB) ||| ((BitVec.ofBool force).setWidth 8 <<< 7)) ∧
    (packStatus p f force).getLsbD 5 = false ∧ packStatus p (f ^^^ 0x20) force = packStatus p f force

/-- R133. -/
def Obligations.PackStatusRespondsTheByte : Prop :=
  (∀ (force : Bool) (f : Byte),
    Sys2Proof.decode (0xA000 ||| ((BitVec.ofBool force).setWidth 16 <<< 11) ||| f.setWidth 16) .none =
      .ok (.packStatus force f)) ∧
  (∀ (force : Bool) (f : Byte) (s : State),
    OnlyResponds (exec (.packStatus force f) s) s { data8 := packStatus s.params f force }) ∧
  (∀ (p : Config.Params) (f : Byte) (force : Bool), p.cnvOverwrite = .all → f.getLsbD 2 = true →
    packStatus p f force = 0x04) ∧
  ∀ p : Config.Params, packStatus p 0x20 false = 0x00 ∧ packStatus p 0x00 true = 0x80 ∧
    packStatus p 0x5B false = 0x5B ∧
    packStatus p 0xDF false = (if p.cnvOverwrite = .all then 0x04 else 0x07)

/-- R134 and R132: the byte with bit 5 dropped, each other bit its flag. -/
def Obligations.UnpackStatusRespondsTheFlags : Prop :=
  (∀ b : Byte, Sys2Proof.decode (0xB000 ||| b.setWidth 16) .none = .ok (.unpackStatus b)) ∧
  (∀ (b : Byte) (s : State),
    OnlyResponds (exec (.unpackStatus b) s) s { data8 := b &&& 0xDF }) ∧
  ∀ b : Byte, unpackStatus b = b &&& 0xDF ∧ (Flags.ofByte b).toByte = unpackStatus b

/-- R138 with R135 and R136: the layout byte by byte, and the trailer under each value of
`P_CKSUM_ENABLE_SOURCE`. -/
def Obligations.EncodeRespondsTheFrame : Prop :=
  (∀ fr : FrameOperand, Sys2Proof.decode 0xC000 (.frame fr) = .ok (.encode false fr)) ∧
  (∀ fr : FrameOperand, Sys2Proof.decode 0xC800 (.frame fr) = .ok (.encode true fr)) ∧
  (∀ (force : Bool) (fr : FrameOperand) (s : State), fr.wf = true →
    let st := packStatus s.params fr.flags force
    let included : Bool :=
      match s.params.cksumSource with
      | .flag => fr.flags.getLsbD 7 || force
      | .statusBit => st.getLsbD 7
    let trailer : List Byte :=
      if included then checksum ([0x42, 0x42, st, fr.command, fr.len] ++ fr.payload) else [0x00, 0x00]
    OnlyResponds (exec (.encode force fr) s) s
      { bytes := [0x55, 0x55, 0x42, 0x42, st, fr.command, fr.len] ++ fr.payload ++ trailer }) ∧
  encodeFrame Config.Params.spec ⟨0x01, 0x00, 0, []⟩ true =
    [0x55, 0x55, 0x42, 0x42, 0x80, 0x01, 0x00, 0x2F, 0xBA]

/-- R137 and R83: an encoded frame has `9 + N` bytes, 9 to 264. -/
def Obligations.EncodedLength : Prop :=
  ∀ (p : Config.Params) (fr : FrameOperand) (force : Bool), fr.wf = true →
    (encodeFrame p fr force).length = 9 + fr.len.toNat ∧
    9 ≤ (encodeFrame p fr force).length ∧ (encodeFrame p fr force).length ≤ 264

/-- R143 with R140: the two errors and their order, and the fields of the Frame. -/
def Obligations.DecodeRespondsTheFrame : Prop :=
  (∀ buf : List Byte, Sys2Proof.decode 0xD000 (.bytes buf) = .ok (.decode buf)) ∧
  ∀ (buf : List Byte) (s : State),
    (buf.length < 9 → OnlyResponds (exec (.decode buf) s) s { err := .tooShort }) ∧
    (9 ≤ buf.length → (byteAt buf 6).toNat ≠ buf.length - 9 →
      OnlyResponds (exec (.decode buf) s) s { err := .lengthMismatch }) ∧
    (9 ≤ buf.length → (byteAt buf 6).toNat = buf.length - 9 →
      ∃ d : Frame, OnlyResponds (exec (.decode buf) s) s { frameValid := true, frame := d } ∧
        d.command = byteAt buf 5 ∧ d.len = byteAt buf 6 ∧
        d.payload = slice buf 7 (7 + (byteAt buf 6).toNat) ∧
        d.flags.toByte = byteAt buf 4 &&& 0xDF ∧
        verifyBuffer buf = .ok d.parsedChecksumValid)

/-- R144: encode then decode gives the command, the payload and the flags byte back, `valid` when
`includes_checksum` is set and `unknown` otherwise; with the force bit, `includes_checksum` comes back
set. -/
def Obligations.DecodeOfEncodedFrame : Prop :=
  ∀ (p : Config.Params) (fr : FrameOperand), fr.wf = true → fr.flags.getLsbD 2 = false →
    fr.flags.getLsbD 5 = false →
    (∃ d, decodeFrame (encodeFrame p fr false) = .ok d ∧ d.command = fr.command ∧ d.len = fr.len ∧
      d.payload = fr.payload ∧ d.flags.toByte = fr.flags ∧
      d.parsedChecksumValid = if fr.flags.getLsbD 7 then .valid else .unknown) ∧
    (∃ d, decodeFrame (encodeFrame p fr true) = .ok d ∧ d.command = fr.command ∧ d.len = fr.len ∧
      d.payload = fr.payload ∧ d.flags.toByte = fr.flags ||| 0x80 ∧ d.parsedChecksumValid = .valid)

/-- R145: with `checksum_not_valid` set, under `ALL` the decoded flags are that bit alone and the tri-state
is `unknown`, whichever way the trailer was written. -/
def Obligations.OverwriteLosesFlags : Prop :=
  ∀ (p : Config.Params) (fr : FrameOperand) (force : Bool), p.cnvOverwrite = .all → fr.wf = true →
    fr.flags.getLsbD 2 = true →
    ∃ d, decodeFrame (encodeFrame p fr force) = .ok d ∧ d.flags.toByte = 0x04 ∧
      d.parsedChecksumValid = .unknown ∧ d.command = fr.command ∧ d.payload = fr.payload

/-- R112 and R142: sync bytes 1 and 2 of a buffer are read by nothing. -/
def Obligations.FirstTwoSyncBytesAreNotRead : Prop :=
  ∀ (a b a' b' : Byte) (rest : List Byte),
    decodeFrame (a :: b :: rest) = decodeFrame (a' :: b' :: rest) ∧
    verifyBuffer (a :: b :: rest) = verifyBuffer (a' :: b' :: rest)

/-! ## The stream-sync unit -/

/-- R171, bit by bit: bits 7 and 5 take no part. -/
def Obligations.IllegalRequestBits : Prop :=
  ∀ b : Byte, illegalRequest b = true ↔
    (b.getLsbD 6 = false ∧
      (b.getLsbD 4 = true ∨ b.getLsbD 3 = true ∨ b.getLsbD 2 = true ∨ b.getLsbD 1 = true ∨
        b.getLsbD 0 = true))

/-- The state after `sd_reset()` (R173) and the response `r`. -/
def resetWith (s : State) (r : Response) : State :=
  { s with sdState := 0, sdCnt := 0, sdRem := 0, sdExp := false, resp := some r }

/-- R174 to R177: states 0 to 3, on a match and on a mismatch. A mismatching byte is consumed (R187). A
match appends, so it needs an entry of `SD_ACC`; StatesOutsideInvariant states what the model does without
one. -/
def Obligations.SyncByteArms : Prop :=
  ∀ (s : State) (b : Byte),
    (s.sdState = 0 → b = 0x55 → s.sdCnt.toNat < 264 →
      exec (.sdProcess b) s = .next { append b s with sdState := 1, resp := some {} }) ∧
    (s.sdState = 0 → b ≠ 0x55 → OnlyResponds (exec (.sdProcess b) s) s {}) ∧
    (s.sdState = 1 → b = 0x55 → s.sdCnt.toNat < 264 →
      exec (.sdProcess b) s = .next { append b s with sdState := 2, resp := some {} }) ∧
    (s.sdState = 1 → b ≠ 0x55 →
      exec (.sdProcess b) s = .next (resetWith s { diag := .syncMismatch, diagState := 1 })) ∧
    (s.sdState = 2 → b = 0x42 → s.sdCnt.toNat < 264 →
      exec (.sdProcess b) s = .next { append b s with sdState := 3, resp := some {} }) ∧
    (s.sdState = 2 → b ≠ 0x42 →
      exec (.sdProcess b) s = .next (resetWith s { diag := .syncMismatch, diagState := 2 })) ∧
    (s.sdState = 3 → b = 0x42 → s.sdCnt.toNat < 264 →
      exec (.sdProcess b) s = .next { append b s with sdState := 4, resp := some {} }) ∧
    (s.sdState = 3 → b ≠ 0x42 →
      exec (.sdProcess b) s = .next (resetWith s { diag := .syncMismatch, diagState := 3 }))

/-- R178 and R179: the status byte is accepted with its bit 7 recorded, or dropped silently. -/
def Obligations.StatusByteArm : Prop :=
  ∀ (s : State) (b : Byte), s.sdState = 4 →
    (illegalRequest b = false → s.sdCnt.toNat < 264 →
      exec (.sdProcess b) s =
        .next { append b s with sdExp := b.getLsbD 7, sdState := 5, resp := some {} }) ∧
    (illegalRequest b = true → exec (.sdProcess b) s = .next (resetWith s {}))

/-- R180 to R183: states 5 to 8 accept every byte. State 7 is entered only with `SD_REM >= 1` (R182), so
its clause asks for that. -/
def Obligations.FrameByteArms : Prop :=
  (∀ (s : State) (b : Byte), s.sdState = 5 → s.sdCnt.toNat < 264 →
    exec (.sdProcess b) s = .next { append b s with sdState := 6, resp := some {} }) ∧
  (∀ (s : State) (b : Byte), s.sdState = 6 → s.sdCnt.toNat < 264 →
    exec (.sdProcess b) s =
      .next { append b s with sdRem := b, sdState := if b = 0 then 8 else 7, resp := some {} }) ∧
  (∀ (s : State) (b : Byte), s.sdState = 7 → s.sdCnt.toNat < 264 → 1 ≤ s.sdRem.toNat →
    ∃ t, exec (.sdProcess b) s = .next t ∧ t.sdRem.toNat = s.sdRem.toNat - 1 ∧
      t = { append b s with
        sdRem := t.sdRem, sdState := if t.sdRem = 0 then 8 else 7, resp := some {} }) ∧
  ∀ (s : State) (b : Byte), s.sdState = 8 → s.sdCnt.toNat < 264 →
    exec (.sdProcess b) s = .next { append b s with sdState := 9, resp := some {} }

/-- R14: what `append(b)` writes, entry by entry, within the accumulator. -/
def Obligations.AppendWritesOneEntry : Prop :=
  ∀ (s : State) (b : Byte), s.sdCnt.toNat < 264 →
    (append b s).sdCnt.toNat = s.sdCnt.toNat + 1 ∧
    (∀ (k : Nat) (hk : k < 264),
      (append b s).sdAcc[k] = if k = s.sdCnt.toNat then b else s.sdAcc[k]) ∧
    append b s = { s with sdAcc := (append b s).sdAcc, sdCnt := (append b s).sdCnt }

/-- R184: in state 9 the completed buffer is decoded, the automaton reset and the Frame returned, in every
state of R31. -/
def Obligations.FrameCompletesInStateNine : Prop :=
  ∀ (s : State) (b : Byte), Inv s → s.sdState = 9 →
    ∃ fr, decodeFrame (accBuffer s ++ [b]) = .ok fr ∧
      exec (.sdProcess b) s = .next (resetWith (append b s) { frameValid := true, frame := fr })

/-- R186: a state value outside 0 to 9, which no command produces from a state value 0 to 9. -/
def Obligations.UnexpectedStateResets : Prop :=
  (∀ (s : State) (b : Byte), 10 ≤ s.sdState.toNat →
    exec (.sdProcess b) s =
      .next (resetWith s { diag := .unexpectedState, diagState := s.sdState })) ∧
  ∀ (i : Instr) (s t : State), s.sdState.toNat ≤ 9 → exec i s = .next t → t.sdState.toNat ≤ 9

/-- What the model does in states outside R31, which no run reaches and to which the spec gives no effect.
All of it is the model's choice: SD.PROCESS stops by name on an append with no entry left (log entry 9) and
on a completed buffer that does not decode (log entry 10), and in state 7 with `SD_REM = 0` the 8-bit
register wraps (log entry 11). -/
def Obligations.StatesOutsideInvariant : Prop :=
  (∀ (s : State) (b : Byte), 5 ≤ s.sdState.toNat → s.sdState.toNat ≤ 9 → 264 ≤ s.sdCnt.toNat →
    exec (.sdProcess b) s = .fault .accumulatorFull) ∧
  (∀ (s : State) (b : Byte), s.sdState.toNat ≤ 3 → Config.sync[s.sdState.toNat]? = some b →
    264 ≤ s.sdCnt.toNat → exec (.sdProcess b) s = .fault .accumulatorFull) ∧
  (∀ (s : State) (b : Byte), s.sdState = 4 → illegalRequest b = false → 264 ≤ s.sdCnt.toNat →
    exec (.sdProcess b) s = .fault .accumulatorFull) ∧
  (∀ (s : State) (b : Byte) (e : FramingError), s.sdState = 9 → s.sdCnt.toNat < 264 →
    decodeFrame (accBuffer s ++ [b]) = .error e →
    exec (.sdProcess b) s = .fault .accumulatedFrameMalformed) ∧
  ∀ (s : State) (b : Byte), s.sdState = 7 → s.sdRem = 0 → s.sdCnt.toNat < 264 →
    exec (.sdProcess b) s = .next { append b s with sdRem := 0xFF, resp := some {} }

/-- R172 and R225: in every state of R31 SD.PROCESS completes on every byte, with `err = NONE`. -/
def Obligations.ProcessAlwaysCompletes : Prop :=
  ∀ (s : State) (b : Byte), Inv s →
    ∃ t r, exec (.sdProcess b) s = .next t ∧ t.resp = some r ∧ r.err = .none

/-- R185 and R227: a Frame is returned exactly from state 9, on the transition to 0, and never together
with a diagnostic. -/
def Obligations.FrameExactlyOnTheLastByte : Prop :=
  ∀ (s t : State) (b : Byte), exec (.sdProcess b) s = .next t →
    ∃ r, t.resp = some r ∧ (r.frameValid = true ↔ s.sdState = 9) ∧
      (r.frameValid = true → t.sdState = 0) ∧ ¬ (r.frameValid = true ∧ r.diag ≠ .none)

/-- R192: which commands raise which diagnostic, and in which states. -/
def Obligations.DiagnosticsExactly : Prop :=
  (∀ (s t : State) (b : Byte), exec (.sdProcess b) s = .next t →
    ∃ r, t.resp = some r ∧ r.err = .none ∧
      (r.diag = .syncMismatch ↔
        (1 ≤ s.sdState.toNat ∧ s.sdState.toNat ≤ 3 ∧ Config.sync[s.sdState.toNat]? ≠ some b)) ∧
      (r.diag = .unexpectedState ↔ 10 ≤ s.sdState.toNat) ∧
      r.diagState = if r.diag = .none then 0 else s.sdState) ∧
  ∀ (i : Instr) (s t : State), (∀ b, i ≠ .sdProcess b) → exec i s = .next t →
    ∃ r, t.resp = some r ∧ r.diag = .none

/-- R190 with R173: SD.RESET in every state. -/
def Obligations.SdResetAbandonsTheFrame : Prop :=
  Sys2Proof.decode 0x2000 .none = .ok .sdReset ∧
  (∀ s : State, exec .sdReset s = .next (resetWith s {})) ∧
  ∀ s t : State, exec .sdReset s = .next t → exec .sdReset t = .next t

/-- R193. -/
def Obligations.SdStateReadsTheRegisters : Prop :=
  Sys2Proof.decode 0x3000 .none = .ok .sdState ∧
  ∀ s : State, OnlyResponds (exec .sdState s) s
    { stState := s.sdState, stCnt := s.sdCnt, stRem := s.sdRem, stExp := s.sdExp }

/-- R30 and R188: `SD_EXP` steers no transition. Changing it before an SD.PROCESS changes nothing after it
but `SD_EXP` itself. -/
def Obligations.ExpectFlagSteersNothing : Prop :=
  ∀ (s t : State) (b : Byte) (e : Bool), exec (.sdProcess b) s = .next t →
    ∃ e', exec (.sdProcess b) { s with sdExp := e } = .next { t with sdExp := e' }

/-- R191: after SD.RESET the automaton answers every stream as it does after the block reset. -/
def Obligations.SdResetActsAsBlockReset : Prop :=
  ∀ (s t u : State) (bs : List Byte), exec .sdReset s = .next t →
    step { s with inputs := [.blockReset] } = .next u →
    (collect bs.length { t with inputs := feedInputs bs }).map (fun p => p.1) =
      (collect bs.length { u with inputs := feedInputs bs }).map (fun p => p.1)

/-- The bytes of an encoded frame whose `checksum_not_valid` is clear and which is a reply or carries no
error flag, fed from rest, give no Frame until the last byte and then the Frame itself (R185 with the
conditions of 90_conflicts.md C1). -/
def Obligations.EncodedFrameIsRecognised : Prop :=
  ∀ (s : State) (p : Config.Params) (fr : FrameOperand) (force : Bool),
    AtRest s → fr.wf = true → fr.flags.getLsbD 2 = false →
    (fr.flags.getLsbD 6 = true ∨ fr.flags &&& 0x1B = 0) →
    s.inputs = feedInputs (encodeFrame p fr force) →
    ∃ (t : State) (d : Frame),
      collect (9 + fr.len.toNat) s =
        some (List.replicate (8 + fr.len.toNat) ({} : Response) ++
          [{ frameValid := true, frame := d }], t) ∧
      d.command = fr.command ∧ d.len = fr.len ∧ d.payload = fr.payload ∧
      d.flags.toByte = (fr.flags &&& 0xDF) ||| (if force then 0x80 else 0x00) ∧
      d.parsedChecksumValid = (if fr.flags.getLsbD 7 || force then .valid else .unknown) ∧
      AtRest t ∧ t.crc = s.crc ∧ t.inputs = []

/-- R261: a frame encoded with `checksum_not_valid`, and a request encoded with any error flag, is dropped
silently at its status byte, under every value of the parameters. -/
def Obligations.DroppedFramesLeaveNoTrace : Prop :=
  ∀ (s : State) (p : Config.Params) (fr : FrameOperand) (force : Bool), AtRest s →
    (fr.flags.getLsbD 2 = true ∨ (fr.flags.getLsbD 6 = false ∧ fr.flags &&& 0x1F ≠ 0)) →
    s.inputs = feedInputs ((encodeFrame p fr force).take 5) →
    ∃ t, collect 5 s = some (List.replicate 5 ({} : Response), t) ∧ AtRest t ∧ t.inputs = []

/-! ## Frames: what a command leaves alone -/

/-- R60: the commands with no side effects write the response alone and may be repeated with the same
result; SD.RESET and CRC.INIT are idempotent. -/
def Obligations.PureCommandsWriteOnlyTheResponse : Prop :=
  (∀ (i : Instr) (s : State), isPure i = true →
    ∃ r, exec i s = .next { s with resp := some r } ∧
      exec i { s with resp := some r } = .next { s with resp := some r }) ∧
  (∀ s t : State, exec .sdReset s = .next t → exec .sdReset t = .next t) ∧
  ∀ s t : State, exec .crcInit s = .next t → exec .crcInit t = .next t

/-- R26 to R30: only SD.PROCESS and SD.RESET write the stream-sync registers. -/
def Obligations.SyncRegistersWrittenOnlyByTheirCommands : Prop :=
  ∀ (i : Instr) (s t : State), writesSync i = false → exec i s = .next t →
    t.sdState = s.sdState ∧ t.sdAcc = s.sdAcc ∧ t.sdCnt = s.sdCnt ∧ t.sdRem = s.sdRem ∧
      t.sdExp = s.sdExp

/-- R27: `append` is the only writer of `SD_ACC`: a command changes at most the entry at the `SD_CNT` it
found, and only SD.PROCESS changes one, to the byte it was given. -/
def Obligations.AccumulatorWrittenOnlyByAppend : Prop :=
  (∀ (i : Instr) (s t : State) (k : Nat) (hk : k < 264), exec i s = .next t → k ≠ s.sdCnt.toNat →
    t.sdAcc[k] = s.sdAcc[k]) ∧
  (∀ (i : Instr) (s t : State), (∀ b, i ≠ .sdProcess b) → exec i s = .next t → t.sdAcc = s.sdAcc) ∧
  ∀ (b : Byte) (s t : State), exec (.sdProcess b) s = .next t →
    t.sdAcc = s.sdAcc ∨ t.sdAcc = (append b s).sdAcc

/-- R25: no command and no input writes the two parameters. The queue clauses are the model's (log entry
1): a command leaves the queue alone and a step takes its oldest input. -/
def Obligations.ParametersAreNeverWritten : Prop :=
  (∀ (i : Instr) (s t : State), exec i s = .next t → t.params = s.params ∧ t.inputs = s.inputs) ∧
  ∀ s t : State, step s = .next t → t.params = s.params ∧ t.inputs = s.inputs.tail

/-- R221: a command that ends with an error writes no state and responds with every field but `err`
zero. -/
def Obligations.ErrorsWriteNoState : Prop :=
  ∀ (s t : State) (r : Response), s.inputs ≠ [] → step s = .next t → t.resp = some r → r.err ≠ .none →
    t = { s with inputs := s.inputs.tail, resp := some { err := r.err } }

/-- R27: no response depends on the entries of `SD_ACC` at or beyond `SD_CNT`. Two states that differ in
those entries alone give the same responses over any number of steps and end in states that differ in
those entries alone. -/
def Obligations.UnusedAccumulatorIsUnobservable : Prop :=
  ∀ (n : Nat) (s t s' : State) (rs : List Response), SameButUnusedAcc s t →
    collect n s = some (rs, s') → ∃ t', collect n t = some (rs, t') ∧ SameButUnusedAcc s' t'
end

