-- ==== Sys2Proof/Laws/Decode.lean ====
section
/-! SUPPORT. The fields of command words: building a word and reading its fields back. -/

namespace Sys2Proof

/-- The `OP` of a built word. -/
@[simp] theorem opField_mkWord (op : BitVec 4) (f : Bool) (d : Byte) :
    opField (mkWord op f d) = op := by
  apply BitVec.eq_of_getLsbD_eq
  intro i hi
  have h3 : (12 + i < 16) := by omega
  have h4 : 12 + i - 11 ≠ 0 := by omega
  have h5 : BitVec.getLsbD d (12 + i) = false := BitVec.getLsbD_of_ge d _ (by omega)
  simp [opField, mkWord, hi, h3, h4, h5]

/-- The `F` of a built word. -/
@[simp] theorem forceField_mkWord (op : BitVec 4) (f : Bool) (d : Byte) :
    forceField (mkWord op f d) = f := by
  simp [forceField, mkWord]

/-- The `Z` of a built word is 0. -/
@[simp] theorem zField_mkWord (op : BitVec 4) (f : Bool) (d : Byte) :
    zField (mkWord op f d) = 0 := by
  apply BitVec.eq_of_getLsbD_eq
  intro i hi
  have h1 : 8 + i < 12 := by omega
  have h2 : 8 + i < 11 := by omega
  simp [zField, mkWord, hi, h1, h2]

/-- The `D` of a built word. -/
@[simp] theorem dField_mkWord (op : BitVec 4) (f : Bool) (d : Byte) :
    dField (mkWord op f d) = d := by
  apply BitVec.eq_of_getLsbD_eq
  intro i hi
  have h1 : i < 12 := by omega
  have h2 : i < 11 := by omega
  simp [dField, mkWord, hi, h1, h2]
  omega

/-- A word with `Z = 0` is built from its own fields. -/
theorem mkWord_fields (w : Word) (h : zField w = 0) :
    mkWord (opField w) (forceField w) (dField w) = w := by
  have hz : ∀ j, j < 3 → w.getLsbD (8+j) = false := by
    intro j hj
    have := congrArg (fun v => v.getLsbD j) h
    simpa [zField, hj] using this
  apply BitVec.eq_of_getLsbD_eq
  intro i hi
  by_cases h8 : i < 8
  · have h1 : i < 12 := by omega
    have h2 : i < 11 := by omega
    simp [mkWord, opField, forceField, dField, hi, h1, h2, h8]
  · by_cases h11 : i < 11
    · have := hz (i-8) (by omega)
      rw [show 8 + (i-8) = i by omega] at this
      have h1 : i < 12 := by omega
      simp [mkWord, opField, forceField, dField, h1, h8, h11, this]
    · by_cases h12 : i = 11
      · subst h12; simp [mkWord, opField, forceField, dField]
      · have h1 : ¬ i < 12 := by omega
        have h3 : i - 12 < 4 := by omega
        have h4 : 12 + (i - 12) = i := by omega
        have h5 : ¬ i - 11 = 0 := by omega
        simp [mkWord, opField, forceField, dField, hi, h1, h8, h11, h3, h4, h5]

/-- Masking a word masks its fields. -/
theorem opField_and (w m : Word) : opField (w &&& m) = opField w &&& opField m := by
  apply BitVec.eq_of_getLsbD_eq
  intro i hi
  simp [opField, hi]

theorem zField_and (w m : Word) : zField (w &&& m) = zField w &&& zField m := by
  apply BitVec.eq_of_getLsbD_eq
  intro i hi
  simp [zField, hi]

theorem dField_and (w m : Word) : dField (w &&& m) = dField w &&& dField m := by
  apply BitVec.eq_of_getLsbD_eq
  intro i hi
  simp [dField, hi]

theorem forceField_and (w m : Word) : forceField (w &&& m) = (forceField w && forceField m) := by
  simp [forceField]

/-- `OP` is determined by its number, as the decoder's match tests it. -/
theorem opField_eq_ofNat {w : Word} {k : Nat} (h : (opField w).toNat = k) :
    opField w = BitVec.ofNat 4 k := by
  rw [← h]; simp

/-- A row accepts a word that matches it with an operand of its kind. -/
theorem accepts_of {r : TableRow} {w : Word} {o : Operand} (hw : w &&& r.mask = r.matchBits)
    (ho : o.kind = r.operand) : r.accepts w o = true := by
  simp [TableRow.accepts, hw, ho]

end Sys2Proof
end

