-- ==== Sys2Proof/Laws/State.lean ====
section
/-! SUPPORT. The state after each shared update, field by field. -/

namespace Sys2Proof.Machine

/-! ## `append` -/

@[simp] theorem append_sdState (b : Byte) (s : State) : (append b s).sdState = s.sdState := rfl
@[simp] theorem append_sdAcc (b : Byte) (s : State) :
    (append b s).sdAcc = s.sdAcc.setIfInBounds s.sdCnt.toNat b := rfl
@[simp] theorem append_sdCnt (b : Byte) (s : State) : (append b s).sdCnt = s.sdCnt + 1 := rfl
@[simp] theorem append_sdRem (b : Byte) (s : State) : (append b s).sdRem = s.sdRem := rfl
@[simp] theorem append_sdExp (b : Byte) (s : State) : (append b s).sdExp = s.sdExp := rfl
@[simp] theorem append_crc (b : Byte) (s : State) : (append b s).crc = s.crc := rfl
@[simp] theorem append_params (b : Byte) (s : State) : (append b s).params = s.params := rfl
@[simp] theorem append_inputs (b : Byte) (s : State) : (append b s).inputs = s.inputs := rfl
@[simp] theorem append_resp (b : Byte) (s : State) : (append b s).resp = s.resp := rfl

/-! ## `sdReset` -/

@[simp] theorem sdReset_sdState (s : State) : (sdReset s).sdState = 0 := rfl
@[simp] theorem sdReset_sdAcc (s : State) : (sdReset s).sdAcc = s.sdAcc := rfl
@[simp] theorem sdReset_sdCnt (s : State) : (sdReset s).sdCnt = 0 := rfl
@[simp] theorem sdReset_sdRem (s : State) : (sdReset s).sdRem = 0 := rfl
@[simp] theorem sdReset_sdExp (s : State) : (sdReset s).sdExp = false := rfl
@[simp] theorem sdReset_crc (s : State) : (sdReset s).crc = s.crc := rfl
@[simp] theorem sdReset_params (s : State) : (sdReset s).params = s.params := rfl
@[simp] theorem sdReset_inputs (s : State) : (sdReset s).inputs = s.inputs := rfl
@[simp] theorem sdReset_resp (s : State) : (sdReset s).resp = s.resp := rfl

/-! ## `blockReset` -/

@[simp] theorem blockReset_sdState (s : State) : (blockReset s).sdState = 0 := rfl
@[simp] theorem blockReset_sdAcc (s : State) : (blockReset s).sdAcc = s.sdAcc := rfl
@[simp] theorem blockReset_sdCnt (s : State) : (blockReset s).sdCnt = 0 := rfl
@[simp] theorem blockReset_sdRem (s : State) : (blockReset s).sdRem = 0 := rfl
@[simp] theorem blockReset_sdExp (s : State) : (blockReset s).sdExp = false := rfl
@[simp] theorem blockReset_crc (s : State) : (blockReset s).crc = Config.crcInit := rfl
@[simp] theorem blockReset_params (s : State) : (blockReset s).params = s.params := rfl
@[simp] theorem blockReset_inputs (s : State) : (blockReset s).inputs = s.inputs := rfl
@[simp] theorem blockReset_resp (s : State) : (blockReset s).resp = none := rfl

/-! ## `withFetchWord` -/

@[simp] theorem withFetchWord_inputs (s : State) (n w : Nat) :
    (s.withFetchWord n w).inputs =
      .command (tableWord n w) (emptyOperandFor (tableWord n w)) :: s.inputs := rfl
@[simp] theorem withFetchWord_sdState (s : State) (n w : Nat) :
    (s.withFetchWord n w).sdState = s.sdState := rfl
@[simp] theorem withFetchWord_sdAcc (s : State) (n w : Nat) : (s.withFetchWord n w).sdAcc = s.sdAcc := rfl
@[simp] theorem withFetchWord_sdCnt (s : State) (n w : Nat) : (s.withFetchWord n w).sdCnt = s.sdCnt := rfl
@[simp] theorem withFetchWord_sdRem (s : State) (n w : Nat) : (s.withFetchWord n w).sdRem = s.sdRem := rfl
@[simp] theorem withFetchWord_sdExp (s : State) (n w : Nat) : (s.withFetchWord n w).sdExp = s.sdExp := rfl
@[simp] theorem withFetchWord_crc (s : State) (n w : Nat) : (s.withFetchWord n w).crc = s.crc := rfl
@[simp] theorem withFetchWord_params (s : State) (n w : Nat) :
    (s.withFetchWord n w).params = s.params := rfl
@[simp] theorem withFetchWord_resp (s : State) (n w : Nat) : (s.withFetchWord n w).resp = s.resp := rfl

end Sys2Proof.Machine
end

