-- ==== Sys2Proof/Laws/Ops.lean ====
section
/-! SUPPORT. What each shared operation can do, once: responding, appending, taking an input, the arms of
SD.PROCESS by state. -/

namespace Sys2Proof.Machine

/-! ## Responses -/

/-- `respond` always answers a next state, which differs in the response alone. -/
theorem respond_eq (r : Response) (s : State) : respond r s = .next { s with resp := some r } := rfl

theorem respond_next {r : Response} {s t : State} (h : respond r s = .next t) :
    t = { s with resp := some r } := by
  cases h; rfl

/-- An error response writes no state. -/
theorem raiseError_eq (e : ErrCode) (s : State) :
    raiseError e s = .next { s with resp := some { err := e } } := rfl

theorem raiseFraming_eq (e : FramingError) (s : State) :
    raiseFraming e s = .next { s with resp := some { err := e.errCode } } := rfl

theorem illegalCommand_eq (s : State) :
    illegalCommand s = .next { s with resp := some { err := .illegalCommand } } := rfl

/-! ## The accumulator -/

theorem appendThen_of_lt {s : State} (h : s.sdCnt.toNat < 264) (b : Byte) (k : State → Result) :
    appendThen b s k = k (append b s) := by
  simp [appendThen, Config.accDepth, h]

theorem appendThen_of_ge {s : State} (h : 264 ≤ s.sdCnt.toNat) (b : Byte) (k : State → Result) :
    appendThen b s k = .fault .accumulatorFull := by
  simp [appendThen, Config.accDepth, Nat.not_lt.mpr h]

/-- `appendThen` answers a next state only with room in `SD_ACC`, and then through `append`. -/
theorem appendThen_next {b : Byte} {s t : State} {k : State → Result} (h : appendThen b s k = .next t) :
    s.sdCnt.toNat < 264 ∧ k (append b s) = .next t := by
  by_cases hlt : s.sdCnt.toNat < 264
  · exact ⟨hlt, by rwa [appendThen_of_lt hlt] at h⟩
  · rw [appendThen_of_ge (Nat.not_lt.mp hlt)] at h; cases h

theorem append_sdCnt_toNat {s : State} (h : s.sdCnt.toNat < 264) (b : Byte) :
    (append b s).sdCnt.toNat = s.sdCnt.toNat + 1 := by
  simp [BitVec.toNat_add]; omega

theorem length_accBuffer (s : State) : (accBuffer s).length = min s.sdCnt.toNat 264 := by
  simp [accBuffer]

theorem length_accBuffer_of_le {s : State} (h : s.sdCnt.toNat ≤ 264) :
    (accBuffer s).length = s.sdCnt.toNat := by
  rw [length_accBuffer]; omega

/-- Appending extends the held bytes at the end. -/
theorem accBuffer_append {s : State} (h : s.sdCnt.toNat < 264) (b : Byte) :
    accBuffer (append b s) = accBuffer s ++ [b] := by
  unfold accBuffer
  rw [append_sdCnt_toNat h]
  apply List.ext_getElem
  · simp; omega
  · intro i h1 h2
    have hi : i ≤ s.sdCnt.toNat := by simp at h1; omega
    rw [List.getElem_append]
    rcases Nat.lt_or_eq_of_le hi with hlt | heq
    · have : s.sdCnt.toNat ≠ i := by omega
      simp [this]
      omega
    · subst heq
      simp

@[simp] theorem accBuffer_sdReset (s : State) : accBuffer (sdReset s) = [] := by
  simp [accBuffer]

/-- Reading the held bytes below `SD_CNT` reads `SD_ACC`. -/
theorem getElem_accBuffer (s : State) (i : Nat) (h : i < (accBuffer s).length) :
    (accBuffer s)[i] = s.sdAcc[i]'(by rw [length_accBuffer] at h; omega) := by
  simp [accBuffer]

/-- An entry below `SD_CNT` is read in the held bytes. -/
theorem byteAt_accBuffer {s : State} {i : Nat} (h : i < s.sdCnt.toNat) (h' : i < 264) :
    byteAt (accBuffer s) i = s.sdAcc[i] := by
  have hl : i < (accBuffer s).length := by rw [length_accBuffer]; omega
  rw [byteAt, List.getD_eq_getElem?_getD, List.getElem?_eq_getElem hl, Option.getD_some, getElem_accBuffer]

/-- `append` leaves every other entry alone. -/
theorem append_getElem_ne {s : State} {i : Nat} (b : Byte) (hi : i < 264) (h : i ≠ s.sdCnt.toNat) :
    (append b s).sdAcc[i] = s.sdAcc[i] := by
  simp [Ne.symm h]

/-- `append` writes the entry at `SD_CNT`. -/
theorem append_getElem_self {s : State} (b : Byte) (h : s.sdCnt.toNat < 264) :
    (append b s).sdAcc[s.sdCnt.toNat] = b := by
  simp

/-! ## The port -/

theorem takeInput_nil {s : State} (h : s.inputs = []) : takeInput s = none := by
  simp [takeInput, h]

theorem takeInput_cons {s : State} {inp : Input} {rest : List Input} (h : s.inputs = inp :: rest) :
    takeInput s = some (inp, { s with inputs := rest }) := by
  simp [takeInput, h]

/-- An operand is refused exactly when it cannot be presented. -/
theorem unpresentable_eq_none_iff (o : Operand) : unpresentable o = none ↔ o.presentable = true := by
  cases o <;> simp [unpresentable, Operand.presentable]

/-! ## SD.PROCESS by state -/

theorem execSdProcess_at0 {s : State} (h : s.sdState = 0) (b : Byte) :
    execSdProcess b s = processSync1 b s := by simp [execSdProcess, h]

theorem execSdProcess_at1 {s : State} (h : s.sdState = 1) (b : Byte) :
    execSdProcess b s = processSync 0x55 Fsm.sync3 b s := by simp [execSdProcess, h]

theorem execSdProcess_at2 {s : State} (h : s.sdState = 2) (b : Byte) :
    execSdProcess b s = processSync 0x42 Fsm.sync4 b s := by simp [execSdProcess, h]

theorem execSdProcess_at3 {s : State} (h : s.sdState = 3) (b : Byte) :
    execSdProcess b s = processSync 0x42 Fsm.status b s := by simp [execSdProcess, h]

theorem execSdProcess_at4 {s : State} (h : s.sdState = 4) (b : Byte) :
    execSdProcess b s = processStatus b s := by simp [execSdProcess, h]

theorem execSdProcess_at5 {s : State} (h : s.sdState = 5) (b : Byte) :
    execSdProcess b s = processCommand b s := by simp [execSdProcess, h]

theorem execSdProcess_at6 {s : State} (h : s.sdState = 6) (b : Byte) :
    execSdProcess b s = processLength b s := by simp [execSdProcess, h]

theorem execSdProcess_at7 {s : State} (h : s.sdState = 7) (b : Byte) :
    execSdProcess b s = processPayload b s := by simp [execSdProcess, h]

theorem execSdProcess_at8 {s : State} (h : s.sdState = 8) (b : Byte) :
    execSdProcess b s = processCksum1 b s := by simp [execSdProcess, h]

theorem execSdProcess_at9 {s : State} (h : s.sdState = 9) (b : Byte) :
    execSdProcess b s = processCksum2 b s := by simp [execSdProcess, h]

theorem execSdProcess_unexpected {s : State} (h : 10 ≤ s.sdState.toNat) (b : Byte) :
    execSdProcess b s = processUnexpected s := by
  unfold execSdProcess
  split <;> first | omega | rfl

/-- A 4-bit state value is one of the ten states or above them. -/
theorem sdState_cases (v : BitVec 4) :
    v = 0 ∨ v = 1 ∨ v = 2 ∨ v = 3 ∨ v = 4 ∨ v = 5 ∨ v = 6 ∨ v = 7 ∨ v = 8 ∨ v = 9 ∨ 10 ≤ v.toNat := by
  revert v; decide

/-- What SD.PROCESS can do to the state, one constructor per arm of R174 to R186. -/
inductive ProcessStep (b : Byte) (s : State) : State → Prop where
  | syncFirst (hs : s.sdState = 0) (hb : b = 0x55) (hc : s.sdCnt.toNat < 264) :
      ProcessStep b s { append b s with sdState := 1, resp := some {} }
  | syncDiscard (hs : s.sdState = 0) (hb : b ≠ 0x55) : ProcessStep b s { s with resp := some {} }
  | syncNext (hs : 1 ≤ s.sdState.toNat) (hs' : s.sdState.toNat ≤ 3)
      (hb : Config.sync[s.sdState.toNat]? = some b) (hc : s.sdCnt.toNat < 264) :
      ProcessStep b s { append b s with sdState := s.sdState + 1, resp := some {} }
  | syncMismatch (hs : 1 ≤ s.sdState.toNat) (hs' : s.sdState.toNat ≤ 3)
      (hb : Config.sync[s.sdState.toNat]? ≠ some b) :
      ProcessStep b s { sdReset s with resp := some { diag := .syncMismatch, diagState := s.sdState } }
  | statusDrop (hs : s.sdState = 4) (hb : illegalRequest b = true) :
      ProcessStep b s { sdReset s with resp := some {} }
  | statusAccept (hs : s.sdState = 4) (hb : illegalRequest b = false) (hc : s.sdCnt.toNat < 264) :
      ProcessStep b s { append b s with sdExp := b.getLsbD 7, sdState := 5, resp := some {} }
  | command (hs : s.sdState = 5) (hc : s.sdCnt.toNat < 264) :
      ProcessStep b s { append b s with sdState := 6, resp := some {} }
  | length (hs : s.sdState = 6) (hc : s.sdCnt.toNat < 264) :
      ProcessStep b s { append b s with sdRem := b, sdState := if b = 0 then 8 else 7, resp := some {} }
  | payload (hs : s.sdState = 7) (hc : s.sdCnt.toNat < 264) :
      ProcessStep b s { append b s with
        sdRem := s.sdRem - 1, sdState := if s.sdRem - 1 = 0 then 8 else 7, resp := some {} }
  | cksum1 (hs : s.sdState = 8) (hc : s.sdCnt.toNat < 264) :
      ProcessStep b s { append b s with sdState := 9, resp := some {} }
  | cksum2 (hs : s.sdState = 9) (hc : s.sdCnt.toNat < 264) (fr : Frame)
      (hf : decodeFrame (accBuffer s ++ [b]) = .ok fr) :
      ProcessStep b s
        { sdReset (append b s) with resp := some { frameValid := true, frame := fr } }
  | unexpected (hs : 10 ≤ s.sdState.toNat) :
      ProcessStep b s
        { sdReset s with resp := some { diag := .unexpectedState, diagState := s.sdState } }

/-- The arms of states 1 to 3. -/
theorem processSync_cases {e b : Byte} {n : BitVec 4} {s t : State} (h : processSync e n b s = .next t)
    (hs : 1 ≤ s.sdState.toNat) (hs' : s.sdState.toNat ≤ 3) (he : Config.sync[s.sdState.toNat]? = some e)
    (hn : n = s.sdState + 1) : ProcessStep b s t := by
  unfold processSync at h
  split at h
  · next hb =>
    obtain ⟨hc, h⟩ := appendThen_next h
    rw [respond_next h, hn]
    exact .syncNext hs hs' (by rw [he, hb]) hc
  · next hb =>
    rw [respond_next h]
    exact .syncMismatch hs hs' (by rw [he]; simpa using Ne.symm hb)

/-- Everything SD.PROCESS can do when it answers a next state. -/
theorem execSdProcess_cases {b : Byte} {s t : State} (h : execSdProcess b s = .next t) :
    ProcessStep b s t := by
  rcases sdState_cases s.sdState with hs | hs | hs | hs | hs | hs | hs | hs | hs | hs | hs
  · rw [execSdProcess_at0 hs, processSync1] at h
    split at h
    · next hb =>
      obtain ⟨hc, h⟩ := appendThen_next h
      rw [respond_next h]; exact .syncFirst hs hb hc
    · next hb => rw [respond_next h]; exact .syncDiscard hs hb
  · rw [execSdProcess_at1 hs] at h
    exact processSync_cases h (by simp [hs]) (by simp [hs]) (by simp [hs, Config.sync]) (by simp [hs])
  · rw [execSdProcess_at2 hs] at h
    exact processSync_cases h (by simp [hs]) (by simp [hs]) (by simp [hs, Config.sync]) (by simp [hs])
  · rw [execSdProcess_at3 hs] at h
    exact processSync_cases h (by simp [hs]) (by simp [hs]) (by simp [hs, Config.sync]) (by simp [hs])
  · rw [execSdProcess_at4 hs, processStatus] at h
    split at h
    · next hb => rw [respond_next h]; exact .statusDrop hs hb
    · next hb =>
      obtain ⟨hc, h⟩ := appendThen_next h
      rw [respond_next h]; exact .statusAccept hs (by simpa using hb) hc
  · rw [execSdProcess_at5 hs, processCommand] at h
    obtain ⟨hc, h⟩ := appendThen_next h
    rw [respond_next h]; exact .command hs hc
  · rw [execSdProcess_at6 hs, processLength] at h
    obtain ⟨hc, h⟩ := appendThen_next h
    rw [respond_next h]; exact .length hs hc
  · rw [execSdProcess_at7 hs, processPayload] at h
    obtain ⟨hc, h⟩ := appendThen_next h
    rw [respond_next h]; exact .payload hs hc
  · rw [execSdProcess_at8 hs, processCksum1] at h
    obtain ⟨hc, h⟩ := appendThen_next h
    rw [respond_next h]; exact .cksum1 hs hc
  · rw [execSdProcess_at9 hs, processCksum2] at h
    obtain ⟨hc, h⟩ := appendThen_next h
    rw [accBuffer_append hc] at h
    split at h
    · next fr hf => rw [respond_next h]; exact .cksum2 hs hc fr hf
    · cases h
  · rw [execSdProcess_unexpected hs, processUnexpected] at h
    rw [respond_next h]; exact .unexpected hs

end Sys2Proof.Machine
end

