-- ==== Sys2Proof/Laws/Frame.lean ====
section
/-! SUPPORT. The pure functions of the CRC unit and the frame codec: one lemma for each thing a function
can do. -/

namespace Sys2Proof.Machine

/-! ## The CRC fold -/

@[simp] theorem crcFold_nil (v : Word) : crcFold v [] = v := rfl

@[simp] theorem crcFold_cons (v : Word) (b : Byte) (s : List Byte) :
    crcFold v (b :: s) = crcFold (crcStep v b) s := rfl

theorem crcFold_append (v : Word) (s t : List Byte) : crcFold v (s ++ t) = crcFold (crcFold v s) t := by
  simp [crcFold, List.foldl_append]

@[simp] theorem length_be16 (v : Word) : (be16 v).length = 2 := rfl

@[simp] theorem length_checksum (s : List Byte) : (checksum s).length = 2 := rfl

/-! ## Slices -/

theorem length_slice (s : List Byte) (a b : Nat) : (slice s a b).length = min (b - a) (s.length - a) := by
  simp [slice]

/-! ## Verify and decode -/

theorem verifyBuffer_short {buf : List Byte} (h : buf.length < 9) :
    verifyBuffer buf = .error .tooShort := by
  unfold verifyBuffer; rw [if_pos h]

theorem verifyBuffer_mismatch {buf : List Byte} (h : 9 ≤ buf.length)
    (hn : (bufLength buf).toNat ≠ buf.length - 9) : verifyBuffer buf = .error .lengthMismatch := by
  unfold verifyBuffer; rw [if_neg (Nat.not_lt.mpr h), if_pos hn]

/-- The tri-state of a buffer whose length checks pass (R111). -/
def triOf (buf : List Byte) : Tri :=
  if (bufStatus buf).getLsbD 7 = false then .unknown
  else if checksum (bufCovered buf) = bufTrailer buf then .valid else .invalid

theorem verifyBuffer_ok {buf : List Byte} (h : 9 ≤ buf.length)
    (hn : (bufLength buf).toNat = buf.length - 9) : verifyBuffer buf = .ok (triOf buf) := by
  unfold verifyBuffer triOf
  rw [if_neg (Nat.not_lt.mpr h), if_neg (not_not.mpr hn)]
  split
  · rfl
  · split <;> rfl

/-- The tri-state is `unknown` exactly when status bit 7 is clear. -/
theorem triOf_unknown {buf : List Byte} (h : (bufStatus buf).getLsbD 7 = false) : triOf buf = .unknown := by
  unfold triOf; rw [if_pos h]

theorem triOf_valid {buf : List Byte} (h : (bufStatus buf).getLsbD 7 = true)
    (hc : checksum (bufCovered buf) = bufTrailer buf) : triOf buf = .valid := by
  unfold triOf; rw [if_neg (by simp [h]), if_pos hc]

theorem triOf_invalid {buf : List Byte} (h : (bufStatus buf).getLsbD 7 = true)
    (hc : checksum (bufCovered buf) ≠ bufTrailer buf) : triOf buf = .invalid := by
  unfold triOf; rw [if_neg (by simp [h]), if_neg hc]

/-- The Frame that a buffer's fields give (R140). -/
def frameOf (buf : List Byte) (r : Tri) : Frame :=
  { command := bufCommand buf, len := bufLength buf, payload := bufPayload buf,
    flags := Flags.ofByte (unpackStatus (bufStatus buf)), parsedChecksumValid := r }

/-- Decode answers what verify answers, with the Frame in place of the tri-state. -/
theorem decodeFrame_of_verify_error {buf : List Byte} {e : FramingError} (h : verifyBuffer buf = .error e) :
    decodeFrame buf = .error e := by
  simp [decodeFrame, h]

theorem decodeFrame_of_verify_ok {buf : List Byte} {r : Tri} (h : verifyBuffer buf = .ok r) :
    decodeFrame buf = .ok (frameOf buf r) := by
  simp [decodeFrame, h, frameOf]

/-! ## Encode -/

theorem length_frameBody (p : Config.Params) {fr : FrameOperand} (force : Bool) (h : fr.wf = true) :
    (frameBody p fr force).length = 7 + fr.len.toNat := by
  simp [FrameOperand.wf] at h
  simp [frameBody, Config.sync, h]; omega

theorem length_frameTrailer (p : Config.Params) (fr : FrameOperand) (force : Bool) :
    (frameTrailer p fr force).length = 2 := by
  unfold frameTrailer; split <;> rfl

/-- The fields of an encoded frame, where decode looks for them. -/
theorem fields_encodeFrame (p : Config.Params) {fr : FrameOperand} (force : Bool) (h : fr.wf = true) :
    bufStatus (encodeFrame p fr force) = packStatus p fr.flags force ∧
      bufCommand (encodeFrame p fr force) = fr.command ∧ bufLength (encodeFrame p fr force) = fr.len ∧
      bufPayload (encodeFrame p fr force) = fr.payload := by
  simp [FrameOperand.wf] at h
  simp [bufStatus, bufCommand, bufLength, bufPayload, byteAt, encodeFrame, frameBody, Config.sync, slice, h]

end Sys2Proof.Machine
end

