-- ==== Sys2Proof/Laws/Exec.lean ====
section
/-! SUPPORT. What a command and what a step can do, once, when they answer a next state. -/

namespace Sys2Proof.Machine

/-- A command is SD.PROCESS, or SD.RESET, or it writes at most `CRC` and the response. -/
theorem exec_next_cases {i : Instr} {s t : State} (h : exec i s = .next t) :
    (∃ b, i = .sdProcess b ∧ ProcessStep b s t) ∨
      (i = .sdReset ∧ t = { sdReset s with resp := some {} }) ∨
      ∃ c r, (writesCrc i = false → c = s.crc) ∧ t = { s with crc := c, resp := some r } := by
  cases i with
  | sdProcess b => exact .inl ⟨b, rfl, execSdProcess_cases h⟩
  | sdReset => exact .inr (.inl ⟨rfl, respond_next h⟩)
  | verify buf =>
    simp only [exec, execVerify] at h
    split at h <;> exact .inr (.inr ⟨s.crc, _, fun _ => rfl, respond_next h⟩)
  | decode buf =>
    simp only [exec, execDecode] at h
    split at h <;> exact .inr (.inr ⟨s.crc, _, fun _ => rfl, respond_next h⟩)
  | crcInit =>
    have h : respond {} { s with crc := Config.crcInit } = .next t := h
    exact .inr (.inr ⟨Config.crcInit, _, by simp [writesCrc], respond_next h⟩)
  | crcUpdate b =>
    have h : respond {} { s with crc := crcStep s.crc b } = .next t := h
    exact .inr (.inr ⟨crcStep s.crc b, _, by simp [writesCrc], respond_next h⟩)
  | sdState => exact .inr (.inr ⟨s.crc, _, fun _ => rfl, respond_next h⟩)
  | crcRead => exact .inr (.inr ⟨s.crc, _, fun _ => rfl, respond_next h⟩)
  | crcTable i => exact .inr (.inr ⟨s.crc, _, fun _ => rfl, respond_next h⟩)
  | checksum bs => exact .inr (.inr ⟨s.crc, _, fun _ => rfl, respond_next h⟩)
  | packStatus force f => exact .inr (.inr ⟨s.crc, _, fun _ => rfl, respond_next h⟩)
  | unpackStatus b => exact .inr (.inr ⟨s.crc, _, fun _ => rfl, respond_next h⟩)
  | encode force fr => exact .inr (.inr ⟨s.crc, _, fun _ => rfl, respond_next h⟩)

/-- Running a command word: it is refused, or illegal, or decodes and runs. -/
theorem runCommand_next_cases {w : Word} {o : Operand} {s t : State} (h : runCommand w o s = .next t) :
    o.presentable = true ∧
      ((∃ i, Sys2Proof.decode w o = .ok i ∧ exec i s = .next t) ∨
        ((∃ e, Sys2Proof.decode w o = .error e) ∧
          t = { s with resp := some { err := .illegalCommand } })) := by
  unfold runCommand at h
  split at h
  · cases h
  · next hp =>
    refine ⟨(unpresentable_eq_none_iff o).1 hp, ?_⟩
    split at h
    · next i hi => exact .inl ⟨i, hi, h⟩
    · next e he =>
      rw [illegalCommand_eq] at h
      cases h
      exact .inr ⟨⟨e, he⟩, rfl⟩

/-- A step waits, resets the block, or runs the oldest command. -/
theorem step_next_cases {s t : State} (h : step s = .next t) :
    (s.inputs = [] ∧ t = s) ∨
      (∃ rest, s.inputs = .blockReset :: rest ∧ t = blockReset { s with inputs := rest }) ∨
      ∃ w o rest, s.inputs = .command w o :: rest ∧ runCommand w o { s with inputs := rest } = .next t := by
  unfold step takeInput at h
  cases hi : s.inputs with
  | nil => rw [hi] at h; cases h; exact .inl ⟨rfl, rfl⟩
  | cons inp rest =>
    rw [hi] at h
    cases inp with
    | blockReset => cases h; exact .inr (.inl ⟨rest, rfl, rfl⟩)
    | command w o => exact .inr (.inr ⟨w, o, rest, rfl, h⟩)

end Sys2Proof.Machine
end

