-- ==== Sys2Proof/Laws/PerInstr.lean ====
section
/-! SUPPORT. A statement about every command, one lemma per constructor: its encoding is accepted by the
row of R74 that has its mnemonic. -/

namespace Sys2Proof.Laws.EncodingOnItsTableRow

/-- The encoding of the command is accepted by the table row of its mnemonic (R74). -/
def Statement (i : Instr) : Prop :=
  ∃ r ∈ commandTable, r.mnemonic = i.mnemonic ∧
    r.accepts (Sys2Proof.encode i).1 (Sys2Proof.encode i).2 = true

theorem sdProcess (b : Byte) : Statement (.sdProcess b) := by
  refine ⟨⟨"SD.PROCESS", 0x1000, 0xFF00, .none⟩, by decide, rfl, ?_⟩
  have h : ∀ d : Byte, mkWord 0x1 false d &&& 0xFF00 = 0x1000 := by decide +kernel
  exact accepts_of (h b) rfl

theorem sdReset : Statement .sdReset := by
  refine ⟨⟨"SD.RESET", 0x2000, 0xFFFF, .none⟩, by decide, rfl, ?_⟩
  have h : mkWord 0x2 false 0 &&& 0xFFFF = 0x2000 := by decide
  exact accepts_of h rfl

theorem sdState : Statement .sdState := by
  refine ⟨⟨"SD.STATE", 0x3000, 0xFFFF, .none⟩, by decide, rfl, ?_⟩
  have h : mkWord 0x3 false 0 &&& 0xFFFF = 0x3000 := by decide
  exact accepts_of h rfl

theorem crcInit : Statement .crcInit := by
  refine ⟨⟨"CRC.INIT", 0x4000, 0xFFFF, .none⟩, by decide, rfl, ?_⟩
  have h : mkWord 0x4 false 0 &&& 0xFFFF = 0x4000 := by decide
  exact accepts_of h rfl

theorem crcUpdate (b : Byte) : Statement (.crcUpdate b) := by
  refine ⟨⟨"CRC.UPDATE", 0x5000, 0xFF00, .none⟩, by decide, rfl, ?_⟩
  have h : ∀ d : Byte, mkWord 0x5 false d &&& 0xFF00 = 0x5000 := by decide +kernel
  exact accepts_of (h b) rfl

theorem crcRead : Statement .crcRead := by
  refine ⟨⟨"CRC.READ", 0x6000, 0xFFFF, .none⟩, by decide, rfl, ?_⟩
  have h : mkWord 0x6 false 0 &&& 0xFFFF = 0x6000 := by decide
  exact accepts_of h rfl

theorem crcTable (i : Byte) : Statement (.crcTable i) := by
  refine ⟨⟨"CRC.TABLE", 0x7000, 0xFF00, .none⟩, by decide, rfl, ?_⟩
  have h : ∀ d : Byte, mkWord 0x7 false d &&& 0xFF00 = 0x7000 := by decide +kernel
  exact accepts_of (h i) rfl

theorem checksum (s : List Byte) : Statement (.checksum s) := by
  refine ⟨⟨"CHECKSUM", 0x8000, 0xFFFF, .bytes⟩, by decide, rfl, ?_⟩
  have h : mkWord 0x8 false 0 &&& 0xFFFF = 0x8000 := by decide
  exact accepts_of h rfl

theorem verify (buf : List Byte) : Statement (.verify buf) := by
  refine ⟨⟨"VERIFY", 0x9000, 0xFFFF, .bytes⟩, by decide, rfl, ?_⟩
  have h : mkWord 0x9 false 0 &&& 0xFFFF = 0x9000 := by decide
  exact accepts_of h rfl

theorem packStatus (force : Bool) (f : Byte) : Statement (.packStatus force f) := by
  refine ⟨⟨"PACK.STATUS", 0xA000, 0xF700, .none⟩, by decide, rfl, ?_⟩
  have h : ∀ (g : Bool) (d : Byte), mkWord 0xA g d &&& 0xF700 = 0xA000 := by decide +kernel
  exact accepts_of (h force f) rfl

theorem unpackStatus (s : Byte) : Statement (.unpackStatus s) := by
  refine ⟨⟨"UNPACK.STATUS", 0xB000, 0xFF00, .none⟩, by decide, rfl, ?_⟩
  have h : ∀ d : Byte, mkWord 0xB false d &&& 0xFF00 = 0xB000 := by decide +kernel
  exact accepts_of (h s) rfl

theorem encode (force : Bool) (fr : FrameOperand) : Statement (.encode force fr) := by
  refine ⟨⟨"ENCODE", 0xC000, 0xF7FF, .frame⟩, by decide, rfl, ?_⟩
  have h : ∀ g : Bool, mkWord 0xC g 0 &&& 0xF7FF = 0xC000 := by decide
  exact accepts_of (h force) rfl

theorem decode (buf : List Byte) : Statement (.decode buf) := by
  refine ⟨⟨"DECODE", 0xD000, 0xFFFF, .bytes⟩, by decide, rfl, ?_⟩
  have h : mkWord 0xD false 0 &&& 0xFFFF = 0xD000 := by decide
  exact accepts_of h rfl

end Sys2Proof.Laws.EncodingOnItsTableRow
end

