-- ==== Sys2Proof/Tests/Slice0.lean ====
section
/-! SUPPORT. The model's own tests. Expected values come from spec/95_test_vectors.md and the examples of
the rules; words are written out field by field, OP F Z D, from spec/30_encoding.md R71 and R73. -/

set_option Elab.async false

namespace Sys2Proof.Tests

open Sys2Proof.Machine

/-! ## Helpers: small states and projections of an outcome -/

/-- The state after reset with the given command pending. -/
def pending (w : Word) (o : Operand) : State := { State.reset with inputs := [.command w o] }

/-- A stream-sync unit that holds the given bytes. -/
def holding (st : BitVec 4) (bs : List Byte) (rem : Byte) (exp : Bool) : State :=
  { State.reset with
    sdState := st
    sdAcc := Vector.ofFn fun i => bs.getD i.val 0
    sdCnt := BitVec.ofNat 9 bs.length
    sdRem := rem
    sdExp := exp }

/-- The response of an outcome. -/
def respOf : Host.Outcome State Fault Refusal → Option Response
  | .next t => t.resp
  | .fault _ => none
  | .refused _ => none

/-- The stream-sync registers and `CRC` of an outcome. -/
def regsOf : Host.Outcome State Fault Refusal → Option (BitVec 4 × BitVec 9 × Byte × Bool × Word)
  | .next t => some (t.sdState, t.sdCnt, t.sdRem, t.sdExp, t.crc)
  | .fault _ => none
  | .refused _ => none

/-- The refusal of an outcome. -/
def refusalOf : Host.Outcome State Fault Refusal → Option Refusal
  | .next _ => none
  | .fault _ => none
  | .refused r => some r

/-- The fault of an outcome. -/
def faultOf : Host.Outcome State Fault Refusal → Option Fault
  | .next _ => none
  | .fault r => some r
  | .refused _ => none

/-- The outcome is a next state. -/
def isNext : Host.Outcome State Fault Refusal → Bool
  | .next _ => true
  | .fault _ => false
  | .refused _ => false

theorem next_of_isNext {o : Host.Outcome State Fault Refusal} (h : isNext o = true) : ∃ t, o = .next t := by
  cases o with
  | next t => exact ⟨t, rfl⟩
  | fault r => cases h
  | refused r => cases h

/-- W1's frame `55 55 42 42 80 01 00 2F BA`. -/
def w1Bytes : List Byte := [0x55, 0x55, 0x42, 0x42, 0x80, 0x01, 0x00, 0x2F, 0xBA]

/-- W1's Frame: command `01`, flags `80`, no payload, valid. -/
def w1Frame : Frame :=
  { command := 0x01, flags := { includesChecksum := true }, parsedChecksumValid := .valid }

/-! ## Well-formedness: one ill-formed term for each check -/

theorem test_wf_rejects_checksum_of_265_bytes : (Instr.checksum (List.replicate 265 0)).wf = false := by
  decide +kernel

theorem test_wf_rejects_verify_of_265_bytes : (Instr.verify (List.replicate 265 0)).wf = false := by
  decide +kernel

theorem test_wf_rejects_decode_of_265_bytes : (Instr.decode (List.replicate 265 0)).wf = false := by
  decide +kernel

theorem test_wf_rejects_payload_shorter_than_len :
    (Instr.encode false { command := 0x10, flags := 0, len := 2, payload := [0xDE] }).wf = false := by
  decide

theorem test_wf_accepts_264_bytes : (Instr.decode (List.replicate 264 0)).wf = true := by decide +kernel

/-! ## Decoding: every constructor, by words written out from R71 and R73 -/

theorem test_decode_sdProcess : decode 0b0001000001010101 .none = .ok (.sdProcess 0x55) := by decide

theorem test_decode_sdReset : decode 0b0010000000000000 .none = .ok .sdReset := by decide

theorem test_decode_sdState : decode 0b0011000000000000 .none = .ok .sdState := by decide

theorem test_decode_crcInit : decode 0b0100000000000000 .none = .ok .crcInit := by decide

theorem test_decode_crcUpdate : decode 0b0101000001000010 .none = .ok (.crcUpdate 0x42) := by decide

theorem test_decode_crcRead : decode 0b0110000000000000 .none = .ok .crcRead := by decide

theorem test_decode_crcTable : decode 0b0111000001011111 .none = .ok (.crcTable 0x5F) := by decide

theorem test_decode_checksum :
    decode 0b1000000000000000 (.bytes [0x31]) = .ok (.checksum [0x31]) := by decide

theorem test_decode_verify : decode 0b1001000000000000 (.bytes [0x55]) = .ok (.verify [0x55]) := by decide

theorem test_decode_packStatus : decode 0b1010000001011011 .none = .ok (.packStatus false 0x5B) := by decide

theorem test_decode_packStatus_force : decode 0b1010100010000100 .none = .ok (.packStatus true 0x84) := by
  decide

theorem test_decode_unpackStatus : decode 0b1011000011111111 .none = .ok (.unpackStatus 0xFF) := by decide

theorem test_decode_encode :
    decode 0b1100000000000000 (.frame ⟨0x10, 0xC0, 2, [0xDE, 0xAD]⟩) =
      .ok (.encode false ⟨0x10, 0xC0, 2, [0xDE, 0xAD]⟩) := by decide

theorem test_decode_encode_force :
    decode 0b1100100000000000 (.frame ⟨0x01, 0x00, 0, []⟩) = .ok (.encode true ⟨0x01, 0x00, 0, []⟩) := by
  decide

theorem test_decode_decode : decode 0b1101000000000000 (.bytes [0x00]) = .ok (.decode [0x00]) := by decide

/-- The illegal words of spec/95_test_vectors.md section 4. -/
theorem test_illegal_words :
    decode 0x0000 .none = .error .reservedOp ∧ decode 0xE000 .none = .error .reservedOp ∧
      decode 0xF000 .none = .error .reservedOp ∧ decode 0x1155 .none = .error .reservedZ ∧
      decode 0x1855 .none = .error .forceSet ∧ decode 0x2001 .none = .error .dataNotZero ∧
      decode 0x4001 .none = .error .dataNotZero ∧
      decode 0xC001 (.frame FrameOperand.zero) = .error .dataNotZero ∧
      decode 0xD000 .none = .error .wrongOperandKind := by decide

/-- The encoder writes the same word. -/
theorem test_encode_words :
    (encode (.sdProcess 0x55)).1 = 0x1055 ∧ (encode (.packStatus true 0x84)).1 = 0xA884 ∧
      (encode (.encode true ⟨0x01, 0x00, 0, []⟩)).1 = 0xC800 := by decide

theorem test_decodeTableWord_encode :
    decodeTableWord 16 0xC000 = some (.encode false FrameOperand.zero) := by decide

/-! ## The CRC unit -/

/-- Entries of the listing of R101, the first, the last and two inside. -/
theorem test_crcTable_entries :
    crcTable 0x01 = 0x1021 ∧ crcTable 0x5F = 0xAB1A ∧ crcTable 0x80 = 0x9188 ∧ crcTable 0xFF = 0x1EF0 := by
  decide

/-- The check value over "123456789" (R109). -/
theorem test_crc16_check_value :
    crc16 [0x31, 0x32, 0x33, 0x34, 0x35, 0x36, 0x37, 0x38, 0x39] = 0xE5CC := by decide +kernel

theorem test_crcUpdate_from_seed :
    regsOf (exec (.crcUpdate 0x42) State.reset) = some (0, 0, 0, false, 0xA41A) := by decide +kernel

theorem test_crcInit_discards :
    regsOf (exec .crcInit { State.reset with crc := 0xA41A }) = some (0, 0, 0, false, 0x1D0F) := by
  decide +kernel

/-- "After block reset, `CRC.READ` gives `1D0F` with no CRC.INIT." -/
theorem test_crcRead_after_reset :
    respOf (step (pending 0x6000 .none)) = some { data16 := 0x1D0F } := by decide +kernel

theorem test_crcTable_response :
    respOf (step (pending 0x705F .none)) = some { data16 := 0xAB1A } := by decide +kernel

theorem test_checksum_of_empty :
    respOf (step (pending 0x8000 (.bytes []))) = some { data16 := 0x1D0F, bytes := [0x1D, 0x0F] } := by
  decide +kernel

theorem test_checksum_leaves_crc :
    regsOf (exec (.checksum [0x42, 0x42]) { State.reset with crc := 0xA41A }) =
      some (0, 0, 0, false, 0xA41A) := by decide +kernel

/-- The VERIFY table of spec/95_test_vectors.md section 2, its tri-state rows. -/
theorem test_verify_tri :
    verifyBuffer w1Bytes = .ok .valid ∧
      verifyBuffer [0x55, 0x55, 0x42, 0x42, 0x80, 0x01, 0x00, 0x2F, 0xBB] = .ok .invalid ∧
      verifyBuffer [0x55, 0x55, 0x42, 0x42, 0x00, 0x01, 0x00, 0xAB, 0xCD] = .ok .unknown ∧
      verifyBuffer [0x00, 0x00, 0x42, 0x42, 0x80, 0x01, 0x00, 0x2F, 0xBA] = .ok .valid ∧
      verifyBuffer [0x55, 0x55, 0x00, 0x42, 0x80, 0x01, 0x00, 0x2F, 0xBA] = .ok .invalid := by
  decide +kernel

/-- The same table's error rows. -/
theorem test_verify_errors :
    respOf (exec (.verify [0x55, 0x55, 0x42, 0x42, 0x80, 0x01, 0x00, 0x2F]) State.reset) =
        some { err := .tooShort } ∧
      respOf (exec (.verify [0x55, 0x55, 0x42, 0x42, 0x80, 0x01, 0x01, 0x2F, 0xBA]) State.reset) =
        some { err := .lengthMismatch } := by decide +kernel

/-! ## The frame codec -/

/-- The PACK.STATUS table of spec/95_test_vectors.md section 3, column `ALL`. -/
theorem test_packStatus_all :
    respOf (step (pending 0xA05B .none)) = some { data8 := 0x5B } ∧
      respOf (step (pending 0xA884 .none)) = some { data8 := 0x04 } ∧
      respOf (step (pending 0xA020 .none)) = some { data8 := 0x00 } ∧
      respOf (step (pending 0xA800 .none)) = some { data8 := 0x80 } := by decide +kernel

/-- The same table, column `IN_ORDER`. -/
theorem test_packStatus_inOrder :
    packStatus ⟨.inOrder, .flag⟩ 0xDF false = 0x07 ∧ packStatus ⟨.inOrder, .flag⟩ 0x84 true = 0x04 ∧
      packStatus ⟨.inOrder, .flag⟩ 0x47 false = 0x07 := by decide

theorem test_unpackStatus :
    respOf (step (pending 0xB0FF .none)) = some { data8 := 0xDF } ∧
      respOf (step (pending 0xB0A5 .none)) = some { data8 := 0x85 } := by decide +kernel

/-- W1 and the first row of W6. -/
theorem test_encode_bytes :
    respOf (step (pending 0xC800 (.frame ⟨0x01, 0x80, 0, []⟩))) = some { bytes := w1Bytes } ∧
      respOf (step (pending 0xC000 (.frame ⟨0x10, 0xC0, 2, [0xDE, 0xAD]⟩))) =
        some { bytes := [0x55, 0x55, 0x42, 0x42, 0xC0, 0x10, 0x02, 0xDE, 0xAD, 0x50, 0x3D] } := by
  decide +kernel

/-- The ENCODE corner cases of spec/95_test_vectors.md section 3, for the three parameter pairs. -/
theorem test_encode_corner_cases :
    encodeFrame ⟨.all, .flag⟩ ⟨0x05, 0x84, 0, []⟩ false =
        [0x55, 0x55, 0x42, 0x42, 0x04, 0x05, 0x00, 0x04, 0xE4] ∧
      encodeFrame ⟨.all, .statusBit⟩ ⟨0x05, 0x84, 0, []⟩ false =
        [0x55, 0x55, 0x42, 0x42, 0x04, 0x05, 0x00, 0x00, 0x00] ∧
      encodeFrame ⟨.inOrder, .flag⟩ ⟨0x05, 0x87, 0, []⟩ false =
        [0x55, 0x55, 0x42, 0x42, 0x07, 0x05, 0x00, 0x5D, 0xB4] := by decide +kernel

theorem test_decode_frame :
    respOf (step (pending 0xD000 (.bytes w1Bytes))) = some { frameValid := true, frame := w1Frame } := by
  decide +kernel

/-- DECODE corner cases: the empty buffer, and a length byte that disagrees. -/
theorem test_decode_errors :
    respOf (step (pending 0xD000 (.bytes []))) = some { err := .tooShort } ∧
      respOf (step (pending 0xD000
        (.bytes [0x55, 0x55, 0x42, 0x42, 0x00, 0x01, 0x00, 0x00, 0x00, 0x00]))) =
        some { err := .lengthMismatch } := by decide +kernel

/-! ## The stream-sync unit -/

/-- The `illegal_request` list of spec/95_test_vectors.md section 4. -/
theorem test_illegalRequest :
    ([0x01, 0x04, 0x10, 0x1F, 0x81, 0xBF].all illegalRequest) = true ∧
      ([0x00, 0x20, 0x40, 0x41, 0x5F, 0x80, 0xA0, 0xC4, 0xFF].any illegalRequest) = false := by decide

/-- R172's example: `0x1055` after reset. -/
theorem test_sdProcess_first_byte :
    regsOf (step (pending 0x1055 .none)) = some (1, 1, 0, false, 0x1D0F) ∧
      respOf (step (pending 0x1055 .none)) = some {} := by decide +kernel

/-- W5, byte 2: `41` in state 2. -/
theorem test_sdProcess_mismatch :
    respOf (exec (.sdProcess 0x41) (holding 2 [0x55, 0x55] 0 false)) =
        some { diag := .syncMismatch, diagState := 2 } ∧
      regsOf (exec (.sdProcess 0x41) (holding 2 [0x55, 0x55] 0 false)) =
        some (0, 0, 0, false, 0x1D0F) := by decide +kernel

/-- W3: the status byte `10` is dropped silently; W5: `80` is accepted. -/
theorem test_sdProcess_status :
    (respOf (exec (.sdProcess 0x10) (holding 4 Config.sync 0 false)) = some {} ∧
      regsOf (exec (.sdProcess 0x10) (holding 4 Config.sync 0 false)) =
        some (0, 0, 0, false, 0x1D0F)) ∧
      regsOf (exec (.sdProcess 0x80) (holding 4 Config.sync 0 false)) =
        some (5, 5, 0, true, 0x1D0F) := by decide +kernel

/-- The length byte `02` and the last payload byte of the payload trace (section 4). -/
theorem test_sdProcess_payload_counts :
    regsOf (exec (.sdProcess 0x02) (holding 6 [0x55, 0x55, 0x42, 0x42, 0xC0, 0x10] 0 true)) =
        some (7, 7, 2, true, 0x1D0F) ∧
      regsOf (exec (.sdProcess 0xAD)
        (holding 7 [0x55, 0x55, 0x42, 0x42, 0xC0, 0x10, 0x02, 0xDE] 1 true)) =
        some (8, 9, 0, true, 0x1D0F) := by decide +kernel

/-- The last byte of W1 in state 9. -/
theorem test_sdProcess_completes_frame :
    respOf (exec (.sdProcess 0xBA) (holding 9 [0x55, 0x55, 0x42, 0x42, 0x80, 0x01, 0x00, 0x2F] 0 true)) =
        some { frameValid := true, frame := w1Frame } := by decide +kernel

/-- A state value outside 0 to 9 (R186). -/
theorem test_sdProcess_unexpected_state :
    respOf (exec (.sdProcess 0x55) (holding 12 [] 0 false)) =
      some { diag := .unexpectedState, diagState := 12 } := by decide +kernel

theorem test_sdReset :
    regsOf (exec .sdReset (holding 4 Config.sync 0 false)) = some (0, 0, 0, false, 0x1D0F) := by
  decide +kernel

/-- R193's example: after `55 55 42 42 C0 10 02 DE`. -/
theorem test_sdState :
    respOf (exec .sdState (holding 7 [0x55, 0x55, 0x42, 0x42, 0xC0, 0x10, 0x02, 0xDE] 1 true)) =
      some { stState := 7, stCnt := 8, stRem := 1, stExp := true } := by decide +kernel

/-! ## The port -/

/-- P4, row 10: `1855` feeds no byte. -/
theorem test_illegal_command :
    respOf (step (pending 0x1855 .none)) = some { err := .illegalCommand } ∧
      regsOf (step (pending 0x1855 .none)) = some (0, 0, 0, false, 0x1D0F) := by decide +kernel

theorem test_operand_too_long :
    refusalOf (step (pending 0x8000 (.bytes (List.replicate 265 0)))) = some .operandTooLong := by
  decide +kernel

theorem test_payload_not_len :
    refusalOf (step (pending 0xC000 (.frame ⟨0, 0, 1, []⟩))) = some .payloadNotLen := by decide +kernel

theorem test_block_reset :
    regsOf (step { holding 7 [0x55] 3 true with crc := 0xA41A, inputs := [.blockReset] }) =
      some (0, 0, 0, false, 0x1D0F) := by decide +kernel

/-- The two faults, in states no run reaches. -/
theorem test_faults :
    faultOf (exec (.sdProcess 0x55) { State.reset with sdCnt := 264 }) = some .accumulatorFull ∧
      faultOf (exec (.sdProcess 0x55) (holding 9 [] 0 false)) = some .accumulatedFrameMalformed := by
  decide +kernel

theorem test_withFetchWord_runs_first :
    respOf (step (State.reset.withFetchWord 16 0x7001)) = some { data16 := 0x1021 } := by decide +kernel

/-! ## Assembly text (R87, R88) -/

theorem test_assemble_lines :
    assembleLine "CRC.UPDATE 0x42 ; fold".toList = some [.crcUpdate 0x42] ∧
      assembleLine "PACK.STATUS.F 0x84".toList = some [.packStatus true 0x84] ∧
      assembleLine "CRC.OF [66, 0x42]".toList =
        some [.crcInit, .crcUpdate 0x42, .crcUpdate 0x42, .crcRead] ∧
      assembleLine "VERIFY [1, 2".toList = none := by decide +kernel

/-- R138's example line, its braces written by code point; and a byte above 255. -/
theorem test_assemble_encode :
    assembleLine ("ENCODE.F ".toList ++ [Char.ofNat 123] ++ "command=0x01, flags=0x00, payload=[]".toList ++
        [Char.ofNat 125]) = some [.encode true ⟨0x01, 0x00, 0, []⟩] ∧
      assembleLine "SD.PROCESS 256".toList = none := by decide +kernel

/-! ## Witnesses: concrete states and operands that meet the hypotheses of each obligation -/

/-- Sync bytes, a status byte `C0`, a command byte and the length byte `n`. -/
def header (n : Byte) : List Byte := [0x55, 0x55, 0x42, 0x42, 0xC0, 0x10, n]

/-- State 7 with the longest payload, `rem` bytes of it still to come. -/
def longPayload (rem : Nat) : State :=
  holding 7 (header 0xFF ++ List.replicate (255 - rem) 0) (BitVec.ofNat 8 rem) true

/-- State 9 of a frame with `n` payload bytes. -/
def beforeLast (n : Nat) : State :=
  holding 9 (header (BitVec.ofNat 8 n) ++ List.replicate (n + 1) 0) 0 true

theorem witness_StepRunsTheDecodedCommand :
    (pending 0x7001 .none).inputs = [.command 0x7001 .none] ∧ Operand.none.presentable = true ∧
      decode 0x7001 .none = .ok (.crcTable 0x01) := by decide +kernel

theorem witness_EmptyPortWaits : State.reset.inputs = [] := rfl

/-- One command for each ground of R80, in its order. -/
theorem witness_IllegalCommandsChangeNothing :
    ((pending 0x1855 .none).inputs = [.command 0x1855 .none] ∧ Operand.none.presentable = true) ∧
      IllegalByFields 0x0000 .none ∧ IllegalByFields 0xE000 .none ∧ IllegalByFields 0xF000 .none ∧
      IllegalByFields 0x1155 .none ∧ IllegalByFields 0x1855 .none ∧ IllegalByFields 0x2001 .none ∧
      IllegalByFields 0xD000 .none :=
  ⟨⟨rfl, rfl⟩, .inl rfl, .inr (.inl rfl), .inr (.inr (.inl rfl)),
    .inr (.inr (.inr (.inl (by decide)))), .inr (.inr (.inr (.inr (.inl (by decide))))),
    .inr (.inr (.inr (.inr (.inr (.inl (by decide)))))),
    .inr (.inr (.inr (.inr (.inr (.inr (by decide))))))⟩

theorem witness_LegalExactlyByOneTableRow :
    decode 0xAFFF .none ≠ .ok (.packStatus true 0xFF) ∧
      decode 0xA8FF .none = .ok (.packStatus true 0xFF) := by decide

theorem witness_DecodeOfEncode : (Instr.checksum (List.replicate 264 0)).wf = true := by decide +kernel

theorem witness_EncodeOfDecode :
    decode 0xD000 (.bytes (List.replicate 264 0)) = .ok (.decode (List.replicate 264 0)) ∧
      (Operand.bytes (List.replicate 264 0)).presentable = true := by decide +kernel

/-- The payload at the ends of its range. -/
theorem witness_AssemblerWords :
    ([] : List Byte).length ≤ 255 ∧ (List.replicate 255 (0 : Byte)).length ≤ 255 := by decide +kernel

theorem witness_UnpresentableOperandsAreRefused :
    ((pending 0x8000 (.bytes (List.replicate 265 0))).inputs =
        [.command 0x8000 (.bytes (List.replicate 265 0))] ∧
      264 < (List.replicate 265 (0 : Byte)).length) ∧
    ((pending 0xC000 (.frame ⟨0, 0, 1, []⟩)).inputs = [.command 0xC000 (.frame ⟨0, 0, 1, []⟩)] ∧
      ([] : List Byte).length ≠ (1 : Byte).toNat) := by decide +kernel

theorem witness_BlockResetLeavesSpecValues :
    { longPayload 1 with inputs := [.blockReset] }.inputs = [.blockReset] := rfl

/-- The invariant holds in states 0 to 6. -/
theorem witness_Inv_early :
    ∀ s ∈ [State.reset, holding 1 [0x55] 0 false, holding 2 [0x55, 0x55] 0 false,
      holding 3 [0x55, 0x55, 0x42] 0 false, holding 4 Config.sync 0 false,
      holding 5 (Config.sync ++ [0xC0]) 0 true, holding 6 (Config.sync ++ [0xC0, 0x10]) 0 true],
      Inv s := by decide +kernel

/-- And in states 7 to 9, with the longest payload and with none. -/
theorem witness_Inv_late :
    ∀ s ∈ [longPayload 255, longPayload 1, holding 8 (header 0xFF ++ List.replicate 255 0) 0 true,
      beforeLast 255, beforeLast 0], Inv s := by decide +kernel

theorem witness_StepKeepsInvariant :
    Inv { beforeLast 0 with inputs := [.command 0x10BA .none] } ∧
      ∃ t, step { beforeLast 0 with inputs := [.command 0x10BA .none] } = .next t :=
  ⟨by decide +kernel, next_of_isNext (by decide +kernel)⟩

theorem witness_StepNeverStops :
    Inv { longPayload 1 with inputs := [.command 0x1000 .none, .blockReset] } ∧
      InputsPresentable { longPayload 1 with inputs := [.command 0x1000 .none, .blockReset] } := by
  decide +kernel

theorem witness_AccumulatedFrameAlwaysDecodes :
    Inv (beforeLast 255) ∧ (beforeLast 255).sdState = 9 := by decide +kernel

theorem witness_CrcInitSeedsCrc : ∃ t, exec .crcInit { State.reset with crc := 0xA41A } = .next t :=
  next_of_isNext (by decide +kernel)

/-- A buffer for each clause, the lengths at 8, 9 and 264. -/
theorem witness_VerifyChecksTheTrailer :
    (w1Bytes.take 8).length < 9 ∧
      (9 ≤ (w1Bytes.set 6 1).length ∧ (byteAt (w1Bytes.set 6 1) 6).toNat ≠ (w1Bytes.set 6 1).length - 9) ∧
      (9 ≤ w1Bytes.length ∧ (byteAt w1Bytes 6).toNat = w1Bytes.length - 9) ∧
      (byteAt w1Bytes 4).getLsbD 7 = true ∧ (byteAt (w1Bytes.set 4 0) 4).getLsbD 7 = false ∧
      checksum (slice w1Bytes 2 7) = slice w1Bytes 7 9 ∧
      checksum (slice (w1Bytes.set 8 0) 2 7) ≠ slice (w1Bytes.set 8 0) 7 9 ∧
      (byteAt (header 0xFF ++ List.replicate 257 0) 6).toNat =
        (header 0xFF ++ List.replicate 257 0).length - 9 := by decide +kernel

theorem witness_CrcIsPrivateToItsCommands :
    writesCrc (.sdProcess 0xBA) = false ∧ Instr.sdProcess 0xBA ≠ .crcRead ∧
      ∃ t, exec (.sdProcess 0xBA) (beforeLast 0) = .next t := ⟨rfl, by decide, next_of_isNext (by decide +kernel)⟩

theorem witness_PseudoInstructionsExpand :
    { State.reset with inputs := (AsmLine.crcOf [0x31]).inputs }.inputs = (AsmLine.crcOf [0x31]).inputs := rfl

/-- The first covered byte, the status byte with bit 7 kept, and the last trailer byte. -/
theorem witness_SingleByteChangeIsDetected :
    verifyBuffer w1Bytes = .ok .valid ∧ byteAt w1Bytes 2 ≠ 0x00 ∧ byteAt w1Bytes 4 ≠ 0xC0 ∧
      (0xC0 : Byte).getLsbD 7 = true ∧ 8 < w1Bytes.length ∧ byteAt w1Bytes 8 ≠ 0xBB := by decide +kernel

theorem witness_PackStatusClosedForm :
    Config.Params.spec.cnvOverwrite = .all ∧
      (Config.Params.mk .inOrder .flag).cnvOverwrite = .inOrder ∧ (0xDF : Byte).getLsbD 2 = true ∧
      (0x5B : Byte).getLsbD 2 = false := by decide

theorem witness_PackStatusRespondsTheByte :
    Config.Params.spec.cnvOverwrite = .all ∧ (0x84 : Byte).getLsbD 2 = true := by decide

theorem witness_EncodeRespondsTheFrame :
    (FrameOperand.mk 0x10 0xC0 2 [0xDE, 0xAD]).wf = true ∧ FrameOperand.zero.wf = true := by decide

theorem witness_EncodedLength :
    (FrameOperand.mk 0x7E 0xC0 0xFF (List.replicate 255 0)).wf = true := by decide +kernel

/-- The clauses ask what those of VERIFY ask. -/
theorem witness_DecodeRespondsTheFrame :
    ([] : List Byte).length < 9 ∧
      (9 ≤ (w1Bytes.set 6 1).length ∧ (byteAt (w1Bytes.set 6 1) 6).toNat ≠ (w1Bytes.set 6 1).length - 9) ∧
      (9 ≤ w1Bytes.length ∧ (byteAt w1Bytes 6).toNat = w1Bytes.length - 9) := by decide

theorem witness_DecodeOfEncodedFrame :
    (FrameOperand.mk 0x10 0xC0 2 [0xDE, 0xAD]).wf = true ∧ (0xC0 : Byte).getLsbD 2 = false ∧
      (0xC0 : Byte).getLsbD 5 = false := by decide

theorem witness_OverwriteLosesFlags :
    Config.Params.spec.cnvOverwrite = .all ∧ (FrameOperand.mk 0x05 0x84 0 []).wf = true ∧
      (0x84 : Byte).getLsbD 2 = true := by decide

/-- One state for each of states 0 to 3; the bytes are `55` and `42`, each a match in one and a mismatch
in another. -/
theorem witness_SyncByteArms :
    (State.reset.sdState = 0 ∧ State.reset.sdCnt.toNat < 264) ∧
      ((holding 1 [0x55] 0 false).sdState = 1 ∧ (holding 1 [0x55] 0 false).sdCnt.toNat < 264) ∧
      ((holding 2 [0x55, 0x55] 0 false).sdState = 2 ∧ (holding 2 [0x55, 0x55] 0 false).sdCnt.toNat < 264) ∧
      ((holding 3 [0x55, 0x55, 0x42] 0 false).sdState = 3 ∧
        (holding 3 [0x55, 0x55, 0x42] 0 false).sdCnt.toNat < 264) ∧
      (0x42 : Byte) ≠ 0x55 := by decide +kernel

theorem witness_StatusByteArm :
    (holding 4 Config.sync 0 false).sdState = 4 ∧ (holding 4 Config.sync 0 false).sdCnt.toNat < 264 ∧
      illegalRequest 0x80 = false ∧ illegalRequest 0x10 = true := by decide +kernel

theorem witness_FrameByteArms :
    ((holding 5 (Config.sync ++ [0xC0]) 0 true).sdState = 5 ∧
        (holding 5 (Config.sync ++ [0xC0]) 0 true).sdCnt.toNat < 264) ∧
      ((holding 6 (Config.sync ++ [0xC0, 0x10]) 0 true).sdState = 6 ∧
        (holding 6 (Config.sync ++ [0xC0, 0x10]) 0 true).sdCnt.toNat < 264) ∧
      ((longPayload 1).sdState = 7 ∧ (longPayload 1).sdCnt.toNat < 264 ∧
        1 ≤ (longPayload 1).sdRem.toNat) ∧
      ((holding 8 (header 0xFF ++ List.replicate 255 0) 0 true).sdState = 8 ∧
        (holding 8 (header 0xFF ++ List.replicate 255 0) 0 true).sdCnt.toNat < 264) := by decide +kernel

theorem witness_AppendWritesOneEntry :
    State.reset.sdCnt.toNat < 264 ∧ (beforeLast 255).sdCnt.toNat = 263 := by decide +kernel

theorem witness_FrameCompletesInStateNine :
    ∀ s ∈ [beforeLast 255, beforeLast 0], Inv s ∧ s.sdState = 9 := by decide +kernel

theorem witness_UnexpectedStateResets :
    (10 ≤ (holding 10 [] 0 false).sdState.toNat ∧ 10 ≤ (holding 15 [] 0 false).sdState.toNat) ∧
      (beforeLast 0).sdState.toNat ≤ 9 ∧ ∃ t, exec (.sdProcess 0xBA) (beforeLast 0) = .next t :=
  ⟨by decide, by decide, next_of_isNext (by decide +kernel)⟩

/-- One state for each clause, the count at 264 and 511. -/
theorem witness_StatesOutsideInvariant :
    (5 ≤ { beforeLast 0 with sdCnt := 264 }.sdState.toNat ∧
        { beforeLast 0 with sdCnt := 264 }.sdState.toNat ≤ 9 ∧
        264 ≤ { beforeLast 0 with sdCnt := 264 }.sdCnt.toNat) ∧
      (Config.sync[{ State.reset with sdCnt := 511 }.sdState.toNat]? = some 0x55 ∧
        264 ≤ { State.reset with sdCnt := 511 }.sdCnt.toNat) ∧
      (illegalRequest 0x80 = false ∧ { holding 4 [] 0 false with sdCnt := 264 }.sdState = 4) ∧
      ((holding 9 [] 0 false).sdCnt.toNat < 264 ∧
        decodeFrame (accBuffer (holding 9 [] 0 false) ++ [0x55]) = .error .tooShort) ∧
      ((holding 7 [] 0 false).sdState = 7 ∧ (holding 7 [] 0 false).sdRem = 0) := by decide +kernel

theorem witness_ProcessAlwaysCompletes : ∀ s ∈ [beforeLast 255, longPayload 1], Inv s := by decide +kernel

theorem witness_FrameExactlyOnTheLastByte :
    ∃ t, exec (.sdProcess 0xBA) (beforeLast 0) = .next t :=
  next_of_isNext (by decide +kernel)

theorem witness_DiagnosticsExactly :
    (∃ t, exec (.sdProcess 0x42) (holding 1 [0x55] 0 false) = .next t) ∧
      (∀ b, Instr.sdReset ≠ .sdProcess b) ∧ ∃ t, exec .sdReset (longPayload 1) = .next t :=
  ⟨next_of_isNext (by decide +kernel), by simp, next_of_isNext (by decide +kernel)⟩

theorem witness_SdResetAbandonsTheFrame : ∃ t, exec .sdReset (longPayload 1) = .next t :=
  next_of_isNext (by decide +kernel)

theorem witness_ExpectFlagSteersNothing :
    ∃ t, exec (.sdProcess 0x80) (holding 4 Config.sync 0 false) = .next t :=
  next_of_isNext (by decide +kernel)

theorem witness_SdResetActsAsBlockReset :
    (∃ t, exec .sdReset (longPayload 1) = .next t) ∧
      ∃ u, step { longPayload 1 with inputs := [.blockReset] } = .next u := ⟨next_of_isNext (by decide +kernel), next_of_isNext (by decide +kernel)⟩

/-- The reset automaton with the bytes of an encoded frame pending: a reply with error flags, and with the
force bit a request with none. -/
def fedFrame (fr : FrameOperand) (force : Bool) : State :=
  { State.reset with inputs := feedInputs (encodeFrame Config.Params.spec fr force) }

theorem witness_EncodedFrameIsRecognised :
    AtRest (fedFrame ⟨0x02, 0xD8, 1, [0x11]⟩ false) ∧ AtRest (fedFrame ⟨0x01, 0x00, 0, []⟩ true) ∧
      ((FrameOperand.mk 0x02 0xD8 1 [0x11]).wf = true ∧ (0xD8 : Byte).getLsbD 2 = false ∧
        (0xD8 : Byte).getLsbD 6 = true) ∧
      ((FrameOperand.mk 0x01 0x00 0 []).wf = true ∧ (0x00 : Byte).getLsbD 2 = false ∧
        (0x00 : Byte) &&& 0x1B = 0) :=
  ⟨⟨rfl, rfl, rfl, rfl⟩, ⟨rfl, rfl, rfl, rfl⟩, by decide, by decide⟩

/-- A frame with `checksum_not_valid`, and a request with another error flag; the first five bytes fed. -/
theorem witness_DroppedFramesLeaveNoTrace :
    AtRest { State.reset with
        inputs := feedInputs ((encodeFrame Config.Params.spec ⟨0x05, 0xC4, 0, []⟩ false).take 5) } ∧
      (0xC4 : Byte).getLsbD 2 = true ∧ (0x90 : Byte).getLsbD 6 = false ∧ (0x90 : Byte) &&& 0x1F ≠ 0 :=
  ⟨⟨rfl, rfl, rfl, rfl⟩, by decide, by decide, by decide⟩

theorem witness_PureCommandsWriteOnlyTheResponse :
    isPure (.verify w1Bytes) = true ∧ (∃ t, exec .sdReset (longPayload 1) = .next t) ∧
      ∃ t, exec .crcInit (longPayload 1) = .next t := ⟨rfl, next_of_isNext (by decide +kernel), next_of_isNext (by decide +kernel)⟩

theorem witness_SyncRegistersWrittenOnlyByTheirCommands :
    writesSync (.crcUpdate 0x42) = false ∧ ∃ t, exec (.crcUpdate 0x42) (longPayload 1) = .next t :=
  ⟨rfl, next_of_isNext (by decide +kernel)⟩

theorem witness_AccumulatorWrittenOnlyByAppend :
    (∃ t, exec (.sdProcess 0x00) (beforeLast 255) = .next t) ∧ 262 ≠ (beforeLast 255).sdCnt.toNat ∧
      (∀ b, Instr.crcRead ≠ .sdProcess b) ∧ ∃ t, exec .crcRead (beforeLast 255) = .next t :=
  ⟨next_of_isNext (by decide +kernel), by decide +kernel, by simp, next_of_isNext (by decide +kernel)⟩

theorem witness_ParametersAreNeverWritten :
    (∃ t, exec (.packStatus true 0x84) State.reset = .next t) ∧
      ∃ t, step (pending 0xA884 .none) = .next t := ⟨next_of_isNext (by decide +kernel), next_of_isNext (by decide +kernel)⟩

theorem witness_ErrorsWriteNoState :
    (pending 0xD000 (.bytes [])).inputs ≠ [] ∧
      (∃ t, step (pending 0xD000 (.bytes [])) = .next t ∧ t.resp = some { err := .tooShort }) ∧
      ErrCode.tooShort ≠ .none := ⟨by decide +kernel, ⟨_, rfl, rfl⟩, by decide⟩

/-- Two states that differ in an unused entry, with a byte pending. -/
theorem witness_UnusedAccumulatorIsUnobservable :
    SameButUnusedAcc (pending 0x1055 .none)
        { pending 0x1055 .none with sdAcc := (pending 0x1055 .none).sdAcc.set 9 0xAA } ∧
      ∃ rs t, collect 1 (pending 0x1055 .none) = some (rs, t) := by
  refine ⟨⟨by decide +kernel, rfl⟩, _, _, rfl⟩

end Sys2Proof.Tests
end

section

namespace Sys2Proof.Machine

/-- R14's write, at every entry of `SD_ACC` at once. -/
theorem append_getElem {s : State} (h : s.sdCnt.toNat < 264) (b : Byte) {k : Nat} (hk : k < 264) :
    (append b s).sdAcc[k] = if k = s.sdCnt.toNat then b else s.sdAcc[k] := by
  split
  case isTrue heq =>
    subst heq
    exact append_getElem_self b h
  case isFalse hne => exact append_getElem_ne b hk hne

/-- `append` changes no field but `SD_ACC` and `SD_CNT` (R14). -/
theorem append_frame (b : Byte) (s : State) :
    append b s = { s with sdAcc := (append b s).sdAcc, sdCnt := (append b s).sdCnt } := rfl

/-- Settles O41: the count, the entries of the accumulator and the frame of `append`, one lemma each. -/
theorem appendWritesOneEntry : Obligations.AppendWritesOneEntry := fun s b hroom =>
  ⟨append_sdCnt_toNat hroom b, fun _ hk => append_getElem hroom b hk, append_frame b s⟩

end Sys2Proof.Machine
end

section

namespace Sys2Proof.Machine

/-! ## SD.PROCESS: what it can do is what it does -/

/-- In states 1 to 3 SD.PROCESS runs the sync arm for the next preamble byte (R175 to R177). -/
theorem execSdProcess_sync {s : State} {e : Byte} (h1 : 1 ≤ s.sdState.toNat) (h3 : s.sdState.toNat ≤ 3)
    (he : Config.sync[s.sdState.toNat]? = some e) (b : Byte) :
    execSdProcess b s = processSync e (s.sdState + 1) b s := by
  obtain hs | hs | hs : s.sdState = 1 ∨ s.sdState = 2 ∨ s.sdState = 3 := by bv_omega
  · obtain rfl : 0x55 = e := by simpa [hs, Config.sync] using he
    rw [execSdProcess_at1 hs, hs]; rfl
  · obtain rfl : 0x42 = e := by simpa [hs, Config.sync] using he
    rw [execSdProcess_at2 hs, hs]; rfl
  · obtain rfl : 0x42 = e := by simpa [hs, Config.sync] using he
    rw [execSdProcess_at3 hs, hs]; rfl

/-- The preamble has an entry for each of states 0 to 3. -/
theorem exists_sync_byte {n : Nat} (h : n ≤ 3) : ∃ e, Config.sync[n]? = some e :=
  ⟨_, List.getElem?_eq_getElem (Nat.lt_succ_of_le h)⟩

/-- The converse of `execSdProcess_cases`: every arm of `ProcessStep` is run. -/
theorem ProcessStep.exec_eq {b : Byte} {s t : State} (h : ProcessStep b s t) :
    execSdProcess b s = .next t := by
  cases h with
  | syncFirst hs hb hc => rw [execSdProcess_at0 hs, processSync1, if_pos hb, appendThen_of_lt hc]; rfl
  | syncDiscard hs hb => rw [execSdProcess_at0 hs, processSync1, if_neg hb]; rfl
  | syncNext h1 h3 hb hc =>
    rw [execSdProcess_sync h1 h3 hb, processSync, if_pos rfl, appendThen_of_lt hc]; rfl
  | syncMismatch h1 h3 hb =>
    obtain ⟨e, he⟩ := exists_sync_byte h3
    have hne : b ≠ e := by rintro rfl; exact hb he
    rw [execSdProcess_sync h1 h3 he, processSync, if_neg hne]; rfl
  | statusDrop hs hb => rw [execSdProcess_at4 hs, processStatus, if_pos hb]; rfl
  | statusAccept hs hb hc =>
    rw [execSdProcess_at4 hs, processStatus, if_neg (by simp [hb])]
    exact appendThen_of_lt (s := { s with sdExp := b.getLsbD 7 }) hc b _
  | command hs hc => rw [execSdProcess_at5 hs, processCommand, appendThen_of_lt hc]; rfl
  | length hs hc => rw [execSdProcess_at6 hs, processLength, appendThen_of_lt hc]; rfl
  | payload hs hc => rw [execSdProcess_at7 hs, processPayload, appendThen_of_lt hc]; rfl
  | cksum1 hs hc => rw [execSdProcess_at8 hs, processCksum1, appendThen_of_lt hc]; rfl
  | cksum2 hs hc fr hf =>
    rw [execSdProcess_at9 hs, processCksum2, appendThen_of_lt hc, accBuffer_append hc, hf]; rfl
  | unexpected hs => rw [execSdProcess_unexpected hs]; rfl

/-- `ProcessStep` is exactly what SD.PROCESS does when it answers a next state. -/
theorem exec_sdProcess_iff {b : Byte} {s t : State} :
    exec (.sdProcess b) s = .next t ↔ ProcessStep b s t :=
  ⟨execSdProcess_cases, ProcessStep.exec_eq⟩

/-- SD.PROCESS stops only for want of room, or in state 9 on a buffer that does not decode. -/
theorem exists_processStep {b : Byte} {s : State} (hc : s.sdCnt.toNat < 264)
    (h9 : s.sdState = 9 → ∃ fr, decodeFrame (accBuffer s ++ [b]) = .ok fr) : ∃ t, ProcessStep b s t := by
  have hsync (h1 : 1 ≤ s.sdState.toNat) (h3 : s.sdState.toNat ≤ 3) : ∃ t, ProcessStep b s t := by
    by_cases hb : Config.sync[s.sdState.toNat]? = some b
    · exact ⟨_, .syncNext h1 h3 hb hc⟩
    · exact ⟨_, .syncMismatch h1 h3 hb⟩
  rcases sdState_cases s.sdState with hs | hs | hs | hs | hs | hs | hs | hs | hs | hs | hs
  · by_cases hb : b = 0x55
    · exact ⟨_, .syncFirst hs hb hc⟩
    · exact ⟨_, .syncDiscard hs hb⟩
  · exact hsync (by simp [hs]) (by simp [hs])
  · exact hsync (by simp [hs]) (by simp [hs])
  · exact hsync (by simp [hs]) (by simp [hs])
  · cases hb : illegalRequest b with
    | true => exact ⟨_, .statusDrop hs hb⟩
    | false => exact ⟨_, .statusAccept hs hb hc⟩
  · exact ⟨_, .command hs hc⟩
  · exact ⟨_, .length hs hc⟩
  · exact ⟨_, .payload hs hc⟩
  · exact ⟨_, .cksum1 hs hc⟩
  · obtain ⟨fr, hf⟩ := h9 hs
    exact ⟨_, .cksum2 hs hc fr hf⟩
  · exact ⟨_, .unexpected hs⟩

/-! ## What SD.PROCESS writes -/

/-- SD.PROCESS writes the stream-sync registers and the response alone (R110, R25). -/
theorem ProcessStep.frame {b : Byte} {s t : State} (h : ProcessStep b s t) :
    t.crc = s.crc ∧ t.params = s.params ∧ t.inputs = s.inputs := by
  cases h <;> exact ⟨rfl, rfl, rfl⟩

/-- An arm of SD.PROCESS leaves `SD_ACC` alone or appends its byte (R27). -/
theorem ProcessStep.sdAcc_eq {b : Byte} {s t : State} (h : ProcessStep b s t) :
    t.sdAcc = s.sdAcc ∨ t.sdAcc = (append b s).sdAcc := by
  cases h with
  | syncDiscard | syncMismatch | statusDrop | unexpected => exact .inl rfl
  | _ => exact .inr rfl

/-! ## Running commands and steps forward -/

/-- The five classes of commands: those of R60 without side effects, and the four that write state. -/
theorem instr_classes (i : Instr) :
    isPure i = true ∨ (∃ b, i = .sdProcess b) ∨ i = .sdReset ∨ i = .crcInit ∨ ∃ b, i = .crcUpdate b := by
  cases i <;> simp [isPure]

/-- The response of a command without side effects (R60); the four others are given the empty one. -/
def pureReply (s : State) : Instr → Response
  | .sdState => { stState := s.sdState, stCnt := s.sdCnt, stRem := s.sdRem, stExp := s.sdExp }
  | .crcRead => { data16 := s.crc }
  | .crcTable i => { data16 := crcTable i }
  | .checksum bs => { data16 := crc16 bs, bytes := checksum bs }
  | .verify buf =>
    match verifyBuffer buf with
    | .error e => { err := e.errCode }
    | .ok r => { tri := r }
  | .packStatus force f => { data8 := packStatus s.params f force }
  | .unpackStatus b => { data8 := unpackStatus b }
  | .encode force fr => { bytes := encodeFrame s.params fr force }
  | .decode buf =>
    match decodeFrame buf with
    | .error e => { err := e.errCode }
    | .ok fr => { frameValid := true, frame := fr }
  | .sdProcess _ => {}
  | .sdReset => {}
  | .crcInit => {}
  | .crcUpdate _ => {}

/-- A command without side effects answers its reply and writes nothing else (R60). -/
theorem exec_pure {i : Instr} (hi : isPure i = true) (s : State) :
    exec i s = .next { s with resp := some (pureReply s i) } := by
  cases i with
  | sdProcess | sdReset | crcInit | crcUpdate => cases hi
  | verify buf =>
    cases hv : verifyBuffer buf <;> simp [exec, execVerify, pureReply, hv, respond_eq, raiseFraming_eq]
  | decode buf =>
    cases hd : decodeFrame buf <;> simp [exec, execDecode, pureReply, hd, respond_eq, raiseFraming_eq]
  | _ => rfl

/-- No reply reads the entries of `SD_ACC`. -/
theorem pureReply_with_sdAcc (s : State) (a : Vector Byte 264) (i : Instr) :
    pureReply { s with sdAcc := a } i = pureReply s i := by
  cases i <;> rfl

/-- Only the reply of CRC.READ reads `CRC` (R110). -/
theorem pureReply_with_crc (s : State) (c : Word) {i : Instr} (hi : i ≠ .crcRead) :
    pureReply { s with crc := c } i = pureReply s i := by
  cases i with
  | crcRead => exact absurd rfl hi
  | _ => rfl

theorem exec_sdReset_eq (s : State) : exec .sdReset s = .next { sdReset s with resp := some {} } := rfl

theorem exec_crcInit_eq (s : State) :
    exec .crcInit s = .next { s with crc := Config.crcInit, resp := some {} } := rfl

theorem exec_crcUpdate_eq (b : Byte) (s : State) :
    exec (.crcUpdate b) s = .next { s with crc := crcStep s.crc b, resp := some {} } := rfl

theorem runCommand_of_decode {w : Word} {o : Operand} {i : Instr} (hp : o.presentable = true)
    (hd : Sys2Proof.decode w o = .ok i) (s : State) : runCommand w o s = exec i s := by
  simp [runCommand, (unpresentable_eq_none_iff o).2 hp, hd]

theorem runCommand_of_illegal {w : Word} {o : Operand} {e : IllegalReason} (hp : o.presentable = true)
    (hd : Sys2Proof.decode w o = .error e) (s : State) :
    runCommand w o s = .next { s with resp := some { err := .illegalCommand } } := by
  simp [runCommand, (unpresentable_eq_none_iff o).2 hp, hd, illegalCommand_eq]

theorem step_of_nil {s : State} (h : s.inputs = []) : step s = .next s := by
  simp [step, takeInput_nil h]

theorem step_of_blockReset {s : State} {rest : List Input} (h : s.inputs = .blockReset :: rest) :
    step s = .next (blockReset { s with inputs := rest }) := by
  simp [step, takeInput_cons h]

theorem step_of_command {s : State} {w : Word} {o : Operand} {rest : List Input}
    (h : s.inputs = .command w o :: rest) : step s = runCommand w o { s with inputs := rest } := by
  simp [step, takeInput_cons h]

/-! ## What commands and steps leave alone -/

/-- No command writes the parameters or the queue (R25). -/
theorem exec_params_inputs {i : Instr} {s t : State} (h : exec i s = .next t) :
    t.params = s.params ∧ t.inputs = s.inputs := by
  obtain ⟨b, rfl, hp⟩ | ⟨rfl, rfl⟩ | ⟨c, r, hc, rfl⟩ := exec_next_cases h
  · exact hp.frame.2
  · exact ⟨rfl, rfl⟩
  · exact ⟨rfl, rfl⟩

theorem runCommand_params_inputs {w : Word} {o : Operand} {s t : State} (h : runCommand w o s = .next t) :
    t.params = s.params ∧ t.inputs = s.inputs := by
  obtain ⟨-, ⟨i, -, hx⟩ | ⟨-, rfl⟩⟩ := runCommand_next_cases h
  · exact exec_params_inputs hx
  · exact ⟨rfl, rfl⟩

/-- A step leaves the parameters as they were and takes the oldest input. -/
theorem step_params_inputs {s t : State} (h : step s = .next t) :
    t.params = s.params ∧ t.inputs = s.inputs.tail := by
  obtain ⟨hi, rfl⟩ | ⟨rest, hi, rfl⟩ | ⟨w, o, rest, hi, hx⟩ := step_next_cases h
  · exact ⟨rfl, by rw [hi]; rfl⟩
  · exact ⟨rfl, by rw [hi]; rfl⟩
  · rw [hi]; exact runCommand_params_inputs hx

/-- Settles O57: no arm of SD.PROCESS, no other command and no step writes the parameters. -/
theorem parametersAreNeverWritten : Obligations.ParametersAreNeverWritten :=
  ⟨fun _ _ _ h => exec_params_inputs h, fun _ _ h => step_params_inputs h⟩

/-- Settles O55: a command that is neither SD.PROCESS nor SD.RESET writes `CRC` and the response at most. -/
theorem syncRegistersWrittenOnlyByTheirCommands : Obligations.SyncRegistersWrittenOnlyByTheirCommands := by
  intro i s t hi h
  obtain ⟨b, rfl, -⟩ | ⟨rfl, -⟩ | ⟨c, r, -, rfl⟩ := exec_next_cases h
  · cases hi
  · cases hi
  · exact ⟨rfl, rfl, rfl, rfl, rfl⟩

/-- A command other than SD.PROCESS leaves `SD_ACC` as it was (R27). -/
theorem exec_sdAcc_eq {i : Instr} {s t : State} (hi : ∀ b, i ≠ .sdProcess b) (h : exec i s = .next t) :
    t.sdAcc = s.sdAcc := by
  obtain ⟨b, rfl, -⟩ | ⟨-, rfl⟩ | ⟨c, r, -, rfl⟩ := exec_next_cases h
  · exact absurd rfl (hi b)
  · rfl
  · rfl

/-- A command changes no entry of `SD_ACC` but the one at the `SD_CNT` it found (R27). -/
theorem exec_sdAcc_getElem {i : Instr} {s t : State} {k : Nat} (hk : k < 264) (h : exec i s = .next t)
    (hne : k ≠ s.sdCnt.toNat) : t.sdAcc[k] = s.sdAcc[k] := by
  by_cases hi : ∀ b, i ≠ .sdProcess b
  · simp only [exec_sdAcc_eq hi h]
  · obtain ⟨b, rfl⟩ : ∃ b, i = .sdProcess b := by simpa using hi
    obtain hacc | hacc := (exec_sdProcess_iff.1 h).sdAcc_eq
    · simp only [hacc]
    · simp only [hacc]; exact append_getElem_ne b hk hne

/-- Settles O56: SD.PROCESS appends or leaves `SD_ACC` alone, and no other command writes it. -/
theorem accumulatorWrittenOnlyByAppend : Obligations.AccumulatorWrittenOnlyByAppend :=
  ⟨fun _ _ _ _ hk h hne => exec_sdAcc_getElem hk h hne, fun _ _ _ hi h => exec_sdAcc_eq hi h,
    fun _ _ _ h => (exec_sdProcess_iff.1 h).sdAcc_eq⟩

/-! ## What SD.PROCESS reads -/

/-- The two states agree on all that SD.PROCESS reads: they differ in `SD_EXP`, `CRC` and the entries of
`SD_ACC` at or beyond `SD_CNT` at most. -/
def SameToProcess (s u : State) : Prop :=
  accBuffer s = accBuffer u ∧ u = { s with sdAcc := u.sdAcc, sdExp := u.sdExp, crc := u.crc }

/-- `append` keeps agreement of the held bytes. -/
theorem accBuffer_append_congr {s u : State} (h : accBuffer s = accBuffer u) (hcnt : u.sdCnt = s.sdCnt)
    (hc : s.sdCnt.toNat < 264) (b : Byte) : accBuffer (append b s) = accBuffer (append b u) := by
  rw [accBuffer_append hc, accBuffer_append (hcnt ▸ hc), h]

/-- SD.PROCESS reads no more than `SameToProcess` fixes: from two states that agree on it, the same byte
gives two that agree on it again. `SD_ACC` and `SD_EXP` stay equal where they were, and `CRC` is kept. -/
theorem ProcessStep.transport {b : Byte} {s s' u : State} (h : ProcessStep b s s')
    (hsu : SameToProcess s u) :
    ∃ u', ProcessStep b u u' ∧ SameToProcess s' u' ∧ (u.sdAcc = s.sdAcc → u'.sdAcc = s'.sdAcc) ∧
      (u.sdExp = s.sdExp → u'.sdExp = s'.sdExp) := by
  obtain ⟨hbuf, hu⟩ := hsu
  obtain ⟨a, e, c, rfl⟩ : ∃ a e c, u = { s with sdAcc := a, sdExp := e, crc := c } := ⟨_, _, _, hu⟩
  have happ (hc : s.sdCnt.toNat < 264) := accBuffer_append_congr hbuf rfl hc b
  have hset (ha : a = s.sdAcc) :
      (append b { s with sdAcc := a, sdExp := e, crc := c }).sdAcc = (append b s).sdAcc := by
    rw [ha]; rfl
  cases h with
  | syncFirst hs hb hc => exact ⟨_, .syncFirst hs hb hc, ⟨happ hc, rfl⟩, hset, id⟩
  | syncDiscard hs hb => exact ⟨_, .syncDiscard hs hb, ⟨hbuf, rfl⟩, id, id⟩
  | syncNext h1 h3 hb hc => exact ⟨_, .syncNext h1 h3 hb hc, ⟨happ hc, rfl⟩, hset, id⟩
  | syncMismatch h1 h3 hb => exact ⟨_, .syncMismatch h1 h3 hb, ⟨rfl, rfl⟩, id, fun _ => rfl⟩
  | statusDrop hs hb => exact ⟨_, .statusDrop hs hb, ⟨rfl, rfl⟩, id, fun _ => rfl⟩
  | statusAccept hs hb hc => exact ⟨_, .statusAccept hs hb hc, ⟨happ hc, rfl⟩, hset, fun _ => rfl⟩
  | command hs hc => exact ⟨_, .command hs hc, ⟨happ hc, rfl⟩, hset, id⟩
  | length hs hc => exact ⟨_, .length hs hc, ⟨happ hc, rfl⟩, hset, id⟩
  | payload hs hc => exact ⟨_, .payload hs hc, ⟨happ hc, rfl⟩, hset, id⟩
  | cksum1 hs hc => exact ⟨_, .cksum1 hs hc, ⟨happ hc, rfl⟩, hset, id⟩
  | cksum2 hs hc fr hf =>
    rw [hbuf] at hf
    exact ⟨_, .cksum2 (s := { s with sdAcc := a, sdExp := e, crc := c }) hs hc fr hf, ⟨rfl, rfl⟩, hset,
      fun _ => rfl⟩
  | unexpected hs => exact ⟨_, .unexpected hs, ⟨rfl, rfl⟩, id, fun _ => rfl⟩

/-- Settles O50: `SD_EXP` is outside what SD.PROCESS reads. -/
theorem expectFlagSteersNothing : Obligations.ExpectFlagSteersNothing := by
  intro s t b e h
  have hp := exec_sdProcess_iff.1 h
  obtain ⟨u, hu, ⟨-, heq⟩, hacc, -⟩ := hp.transport (u := { s with sdExp := e }) ⟨rfl, rfl⟩
  have hcrc : u.crc = t.crc := hu.frame.1.trans hp.frame.1.symm
  rw [hacc rfl, hcrc] at heq
  exact ⟨u.sdExp, heq ▸ exec_sdProcess_iff.2 hu⟩

/-- Of SD.PROCESS, neither the response nor a write but that of `CRC` itself depends on `CRC` (R110). -/
theorem ProcessStep.with_crc {b : Byte} {s t : State} (h : ProcessStep b s t) (c : Word) :
    ProcessStep b { s with crc := c } { t with crc := c } := by
  obtain ⟨u, hu, ⟨-, heq⟩, hacc, hexp⟩ := h.transport (u := { s with crc := c }) ⟨rfl, rfl⟩
  have hcrc : u.crc = c := hu.frame.1
  rw [hacc rfl, hexp rfl, hcrc] at heq
  exact heq ▸ hu

/-- A command outside CRC.INIT and CRC.UPDATE leaves `CRC` as it was (R33). -/
theorem exec_crc_eq {i : Instr} {s t : State} (hi : writesCrc i = false) (h : exec i s = .next t) :
    t.crc = s.crc := by
  obtain ⟨b, rfl, hp⟩ | ⟨rfl, rfl⟩ | ⟨c, r, hc, rfl⟩ := exec_next_cases h
  · exact hp.frame.1
  · rfl
  · exact hc hi

/-- Only the commands of the running checksum read `CRC` (R110). -/
theorem exec_with_crc {i : Instr} {s t : State} (c : Word) (hi : writesCrc i = false)
    (hr : i ≠ .crcRead) (h : exec i s = .next t) :
    exec i { s with crc := c } = .next { t with crc := c } := by
  obtain hp | ⟨b, rfl⟩ | rfl | rfl | ⟨b, rfl⟩ := instr_classes i
  · rw [exec_pure hp] at h
    cases h
    rw [exec_pure hp, pureReply_with_crc s c hr]
  · exact exec_sdProcess_iff.2 ((exec_sdProcess_iff.1 h).with_crc c)
  · cases h; rfl
  · cases hi
  · cases hi

/-- Settles O25: one lemma for the writers of `CRC` and one for its readers. -/
theorem crcIsPrivateToItsCommands : Obligations.CrcIsPrivateToItsCommands :=
  ⟨fun _ _ _ hi h => exec_crc_eq hi h, fun _ _ _ c hi hr h => exec_with_crc c hi hr h⟩

/-! ## The unused entries of the accumulator -/

theorem ProcessStep.sameButUnusedAcc {b : Byte} {s s' t : State} (h : ProcessStep b s s')
    (hst : SameButUnusedAcc s t) : ∃ t', ProcessStep b t t' ∧ SameButUnusedAcc s' t' := by
  obtain ⟨hbuf, ht⟩ := hst
  obtain ⟨a, rfl⟩ : ∃ a, t = { s with sdAcc := a } := ⟨_, ht⟩
  obtain ⟨u, hu, ⟨hbuf', heq⟩, -, hexp⟩ := h.transport (u := { s with sdAcc := a }) ⟨hbuf, rfl⟩
  have hcrc : u.crc = s'.crc := hu.frame.1.trans h.frame.1.symm
  rw [hexp rfl, hcrc] at heq
  exact ⟨u, hu, hbuf', heq⟩

/-- A command keeps agreement up to the unused entries (R27). -/
theorem exec_sameButUnusedAcc {i : Instr} {s s' t : State} (hst : SameButUnusedAcc s t)
    (h : exec i s = .next s') : ∃ t', exec i t = .next t' ∧ SameButUnusedAcc s' t' := by
  obtain hp | ⟨b, rfl⟩ | hi := instr_classes i
  · obtain ⟨hbuf, ht⟩ := hst
    rw [exec_pure hp] at h
    cases h
    refine ⟨_, exec_pure hp t, hbuf, ?_⟩
    rw [ht, pureReply_with_sdAcc]
  · obtain ⟨t', ht, hst'⟩ := (exec_sdProcess_iff.1 h).sameButUnusedAcc hst
    exact ⟨t', exec_sdProcess_iff.2 ht, hst'⟩
  · obtain ⟨hbuf, ht⟩ := hst
    obtain ⟨a, rfl⟩ : ∃ a, t = { s with sdAcc := a } := ⟨_, ht⟩
    obtain rfl | rfl | ⟨b, rfl⟩ := hi
    · cases h; exact ⟨_, exec_sdReset_eq _, rfl, rfl⟩
    · cases h; exact ⟨_, exec_crcInit_eq _, hbuf, rfl⟩
    · cases h; exact ⟨_, exec_crcUpdate_eq b _, hbuf, rfl⟩

theorem runCommand_sameButUnusedAcc {w : Word} {o : Operand} {s s' t : State}
    (hst : SameButUnusedAcc s t) (h : runCommand w o s = .next s') :
    ∃ t', runCommand w o t = .next t' ∧ SameButUnusedAcc s' t' := by
  obtain ⟨hp, ⟨i, hd, hx⟩ | ⟨⟨e, hd⟩, rfl⟩⟩ := runCommand_next_cases h
  · rw [runCommand_of_decode hp hd]
    exact exec_sameButUnusedAcc hst hx
  · obtain ⟨hbuf, ht⟩ := hst
    exact ⟨_, runCommand_of_illegal hp hd t, hbuf, by rw [ht]⟩

/-- A step keeps agreement up to the unused entries (R27). -/
theorem step_sameButUnusedAcc {s s' t : State} (hst : SameButUnusedAcc s t) (h : step s = .next s') :
    ∃ t', step t = .next t' ∧ SameButUnusedAcc s' t' := by
  obtain ⟨hbuf, ht⟩ := hst
  obtain ⟨a, rfl⟩ : ∃ a, t = { s with sdAcc := a } := ⟨_, ht⟩
  obtain ⟨hi, rfl⟩ | ⟨rest, hi, rfl⟩ | ⟨w, o, rest, hi, hx⟩ := step_next_cases h
  · exact ⟨_, step_of_nil hi, hbuf, rfl⟩
  · exact ⟨_, step_of_blockReset hi, rfl, rfl⟩
  · rw [step_of_command (s := { s with sdAcc := a }) hi]
    exact runCommand_sameButUnusedAcc (s := { s with inputs := rest }) ⟨hbuf, rfl⟩ hx

/-- Agreeing states hold the same response. -/
theorem SameButUnusedAcc.resp_eq {s t : State} (h : SameButUnusedAcc s t) : t.resp = s.resp := by
  obtain ⟨-, ht⟩ := h
  rw [ht]

/-- A run of `n + 1` steps is a step and a run of `n`. -/
theorem collect_succ_iff {n : Nat} {s u : State} {rs : List Response} :
    collect (n + 1) s = some (rs, u) ↔
      ∃ t rs', step s = .next t ∧ collect n t = some (rs', u) ∧ rs = t.resp.toList ++ rs' := by
  rw [collect]
  cases hs : step s with
  | next t =>
    cases hc : collect n t with
    | none => simp [hc]
    | some p => simp [hc, Prod.ext_iff, and_comm, eq_comm]
  | fault r => simp
  | refused r => simp

/-- Settles O59, by induction on the number of steps. -/
theorem unusedAccumulatorIsUnobservable : Obligations.UnusedAccumulatorIsUnobservable := by
  intro n
  induction n with
  | zero =>
    intro s t s' rs hst h
    cases h
    exact ⟨t, rfl, hst⟩
  | succ n ih =>
    intro s t s' rs hst h
    obtain ⟨s₁, rs', hs, hrun, rfl⟩ := collect_succ_iff.1 h
    obtain ⟨t₁, ht, hst₁⟩ := step_sameButUnusedAcc hst hs
    obtain ⟨t', hrun', hst'⟩ := ih s₁ t₁ s' rs' hst₁ hrun
    exact ⟨t', collect_succ_iff.2 ⟨t₁, rs', ht, hrun', by rw [hst₁.resp_eq]⟩, hst'⟩

/-! ## The invariant of R31 -/

/-- The rows of R31's table, one constructor per row. -/
inductive SyncRow (s : State) : Prop where
  | rest (hs : s.sdState = 0) (hc : s.sdCnt = 0) (hr : s.sdRem = 0) (he : s.sdExp = false)
  | sync (h1 : 1 ≤ s.sdState.toNat) (h4 : s.sdState.toNat ≤ 4) (hc : s.sdCnt.toNat = s.sdState.toNat)
      (hr : s.sdRem = 0) (he : s.sdExp = false)
  | command (hs : s.sdState = 5) (hc : s.sdCnt = 5) (hr : s.sdRem = 0) (he : s.sdExp = accExpects s)
  | length (hs : s.sdState = 6) (hc : s.sdCnt = 6) (hr : s.sdRem = 0) (he : s.sdExp = accExpects s)
  | payload (hs : s.sdState = 7) (h1 : 1 ≤ s.sdRem.toNat) (hl : s.sdRem.toNat ≤ accLength s)
      (hc : s.sdCnt.toNat = 7 + accLength s - s.sdRem.toNat) (he : s.sdExp = accExpects s)
  | cksum1 (hs : s.sdState = 8) (hc : s.sdCnt.toNat = 7 + accLength s) (hr : s.sdRem = 0)
      (he : s.sdExp = accExpects s)
  | cksum2 (hs : s.sdState = 9) (hc : s.sdCnt.toNat = 8 + accLength s) (hr : s.sdRem = 0)
      (he : s.sdExp = accExpects s)

/-- A state in a row meets the whole table. -/
theorem SyncRow.table {s : State} (h : SyncRow s) : SyncTable s := by
  cases h with
  | sync h1 h4 hc hr he =>
    obtain hs | hs | hs | hs : s.sdState = 1 ∨ s.sdState = 2 ∨ s.sdState = 3 ∨ s.sdState = 4 := by
      bv_omega
    all_goals simp [SyncTable, hs, hc, hr, he]
  | _ => simp [SyncTable, *]

/-- A state that meets the table is in one of its rows. -/
theorem SyncTable.row {s : State} (h : SyncTable s) : SyncRow s := by
  obtain ⟨h0, h14, h5, h6, h7, h8, h9, hle⟩ := h
  have hsync (h1 : 1 ≤ s.sdState.toNat) (h4 : s.sdState.toNat ≤ 4) : SyncRow s := by
    obtain ⟨hc, hr, he⟩ := h14 ⟨h1, h4⟩
    exact .sync h1 h4 hc hr he
  rcases sdState_cases s.sdState with hs | hs | hs | hs | hs | hs | hs | hs | hs | hs | hs
  · obtain ⟨hc, hr, he⟩ := h0 hs; exact .rest hs hc hr he
  · exact hsync (by simp [hs]) (by simp [hs])
  · exact hsync (by simp [hs]) (by simp [hs])
  · exact hsync (by simp [hs]) (by simp [hs])
  · exact hsync (by simp [hs]) (by simp [hs])
  · obtain ⟨hc, hr, he⟩ := h5 hs; exact .command hs hc hr he
  · obtain ⟨hc, hr, he⟩ := h6 hs; exact .length hs hc hr he
  · obtain ⟨h1, hl, hc, he⟩ := h7 hs; exact .payload hs h1 hl hc he
  · obtain ⟨hc, hr, he⟩ := h8 hs; exact .cksum1 hs hc hr he
  · obtain ⟨hc, hr, he⟩ := h9 hs; exact .cksum2 hs hc hr he
  · omega

/-- In states 0 to 4 the count is the state, and the other registers are at rest. -/
theorem SyncTable.early {s : State} (h : SyncTable s) (h4 : s.sdState.toNat ≤ 4) :
    s.sdCnt.toNat = s.sdState.toNat ∧ s.sdRem = 0 ∧ s.sdExp = false := by
  obtain ⟨h0, h14, -⟩ := h
  by_cases h1 : 1 ≤ s.sdState.toNat
  · exact h14 ⟨h1, h4⟩
  · have hs : s.sdState = 0 := by bv_omega
    obtain ⟨hc, hr, he⟩ := h0 hs
    exact ⟨by rw [hc, hs]; rfl, hr, he⟩

/-- R31's bound: 263 is `8 + SD_ACC[6]` at its largest. -/
theorem SyncTable.sdCnt_le {s : State} (h : SyncTable s) : s.sdCnt.toNat ≤ 263 := by
  have hL : accLength s ≤ 255 := Nat.le_of_lt_succ (s.sdAcc[6]).isLt
  cases h.row with
  | rest hs hc => simp [hc]
  | sync h1 h4 hc => omega
  | command hs hc => simp [hc]
  | length hs hc => simp [hc]
  | payload hs h1 hl hc => omega
  | cksum1 hs hc => omega
  | cksum2 hs hc => omega

/-- The unit at rest meets the invariant whatever `SD_ACC` holds. -/
theorem inv_of_atRest {s : State} (h : AtRest s) : Inv s := by
  obtain ⟨hs, hc, hr, he⟩ := h
  refine ⟨(SyncRow.rest hs hc hr he).table, ?_, ?_⟩
  · simp [PreambleHeld, accBuffer, hc]
  · simp [StatusAccepted, hc]

/-- The next preamble byte, or any byte after the preamble, keeps the held bytes those of the preamble. -/
theorem preambleHeld_append {b : Byte} {s : State} (h : PreambleHeld s) (hc : s.sdCnt.toNat < 264)
    (hb : s.sdCnt.toNat < 4 → Config.sync[s.sdCnt.toNat]? = some b) : PreambleHeld (append b s) := by
  have hlen := length_accBuffer_of_le (Nat.le_of_lt hc)
  rw [PreambleHeld] at h ⊢
  rw [accBuffer_append hc, append_sdCnt_toNat hc]
  by_cases h4 : s.sdCnt.toNat < 4
  · rw [List.take_of_length_le (by omega)] at h
    rw [List.take_of_length_le (by simp; omega), List.take_add_one, hb h4, h]; rfl
  · have hsync : Config.sync.length ≤ s.sdCnt.toNat := Nat.not_lt.mp h4
    rw [List.take_append_of_le_length (by omega), h, List.take_of_length_le hsync,
      List.take_of_length_le (Nat.le_succ_of_le hsync)]

/-- An accepted status byte, or a byte at another place, keeps the held status byte accepted. -/
theorem statusAccepted_append {b : Byte} {s : State} (h : StatusAccepted s) (hc : s.sdCnt.toNat < 264)
    (hb : s.sdCnt.toNat = 4 → illegalRequest b = false) : StatusAccepted (append b s) := by
  intro h5
  rw [append_sdCnt_toNat hc] at h5
  rw [append_getElem hc b]
  split
  · next h4 => exact hb h4.symm
  · exact h (by omega)

/-- A state that an append leads to meets the invariant when the byte fits its place and the registers are
those of a row. -/
theorem inv_of_append {b : Byte} {s u : State} (h : Inv s) (hc : s.sdCnt.toNat < 264)
    (hacc : u.sdAcc = (append b s).sdAcc) (hcnt : u.sdCnt = (append b s).sdCnt)
    (hsync : s.sdCnt.toNat < 4 → Config.sync[s.sdCnt.toNat]? = some b)
    (hstatus : s.sdCnt.toNat = 4 → illegalRequest b = false) (hrow : SyncRow u) : Inv u := by
  obtain ⟨-, hpre, hst⟩ := h
  refine ⟨hrow.table, ?_, ?_⟩
  · have hp := preambleHeld_append hpre hc hsync
    rwa [PreambleHeld, accBuffer, ← hacc, ← hcnt] at hp
  · have hs := statusAccepted_append hst hc hstatus
    rw [StatusAccepted] at hs ⊢
    simpa only [hacc, hcnt] using hs

theorem accLength_append_of_ne {s : State} (h : s.sdCnt.toNat ≠ 6) (b : Byte) :
    accLength (append b s) = accLength s := by
  rw [accLength, append_getElem_ne b _ h.symm]

theorem accExpects_append_of_ne {s : State} (h : s.sdCnt.toNat ≠ 4) (b : Byte) :
    accExpects (append b s) = accExpects s := by
  rw [accExpects, append_getElem_ne b _ h.symm]

theorem accLength_append_of_eq {s : State} (h : s.sdCnt.toNat = 6) (b : Byte) :
    accLength (append b s) = b.toNat := by
  rw [accLength, append_getElem (by omega), if_pos h.symm]

theorem accExpects_append_of_eq {s : State} (h : s.sdCnt.toNat = 4) (b : Byte) :
    accExpects (append b s) = b.getLsbD 7 := by
  rw [accExpects, append_getElem (by omega), if_pos h.symm]

/-- From state 5 on the header's first five bytes are held. -/
theorem SyncTable.five_le_sdCnt {s : State} (h : SyncTable s) (h5 : 5 ≤ s.sdState.toNat) :
    5 ≤ s.sdCnt.toNat := by
  cases h.row with
  | rest hs => simp [hs] at h5
  | sync h1 h4 => omega
  | command hs hc => simp [hc]
  | length hs hc => simp [hc]
  | payload hs h1 hl hc => omega
  | cksum1 hs hc => omega
  | cksum2 hs hc => omega

/-- From state 5 on any byte fits its place. -/
theorem inv_of_append_late {b : Byte} {s u : State} (h : Inv s) (hc : s.sdCnt.toNat < 264)
    (h5 : 5 ≤ s.sdState.toNat) (hacc : u.sdAcc = (append b s).sdAcc)
    (hcnt : u.sdCnt = (append b s).sdCnt) (hrow : SyncRow u) : Inv u := by
  have ⟨htab, _, _⟩ := h
  have hle := htab.five_le_sdCnt h5
  exact inv_of_append h hc hacc hcnt (by omega) (by omega) hrow

section
variable {b : Byte} {s : State} {r : Response}

/-- The status byte leads from state 4 to the row of state 5 (R178). -/
theorem syncRow_status (hs : s.sdState = 4) (h : SyncTable s) :
    SyncRow { append b s with sdExp := b.getLsbD 7, sdState := 5, resp := some r } := by
  obtain ⟨hcnt, hrem, -⟩ := h.early (by simp [hs])
  have hcnt : s.sdCnt = 4 := by bv_omega
  exact .command rfl (by simp [hcnt]) hrem (accExpects_append_of_eq (by simp [hcnt]) b).symm

/-- The command byte leads from the row of state 5 to that of state 6 (R180). -/
theorem syncRow_command (hs : s.sdState = 5) (h : SyncTable s) :
    SyncRow { append b s with sdState := 6, resp := some r } := by
  obtain ⟨-, -, h5, -⟩ := h
  obtain ⟨hcnt, hrem, hexp⟩ := h5 hs
  have hexp := hexp.trans (accExpects_append_of_ne (by simp [hcnt]) b).symm
  exact .length rfl (by simp [hcnt]) hrem hexp

/-- The length byte leads from the row of state 6 to that of state 7, or of state 8 when it is 0 (R181). -/
theorem syncRow_length (hs : s.sdState = 6) (h : SyncTable s) :
    SyncRow { append b s with sdRem := b, sdState := if b = 0 then 8 else 7, resp := some r } := by
  obtain ⟨-, -, -, h6, -⟩ := h
  obtain ⟨hcnt, hrem, hexp⟩ := h6 hs
  have hexp := hexp.trans (accExpects_append_of_ne (by simp [hcnt]) b).symm
  have hlen : accLength (append b s) = b.toNat := accLength_append_of_eq (by simp [hcnt]) b
  have hcnt' : (append b s).sdCnt.toNat = 7 := by simp [hcnt]
  by_cases hb : b = 0
  · have hrow : (append b s).sdCnt.toNat = 7 + accLength (append b s) := by rw [hlen, hcnt', hb]; rfl
    exact .cksum1 (if_pos hb) hrow hb hexp
  · have hpos : 1 ≤ b.toNat := by bv_omega
    have hrow : (append b s).sdCnt.toNat = 7 + accLength (append b s) - b.toNat := by omega
    exact .payload (if_neg hb) hpos hlen.ge hrow hexp

/-- A payload byte leads from the row of state 7 to itself, or to that of state 8 when it is the last
(R182). -/
theorem syncRow_payload (hs : s.sdState = 7) (hc : s.sdCnt.toNat < 264) (h : SyncTable s) :
    SyncRow { append b s with
      sdRem := s.sdRem - 1, sdState := if s.sdRem - 1 = 0 then 8 else 7, resp := some r } := by
  obtain ⟨-, -, -, -, h7, -⟩ := h
  obtain ⟨h1, hle, hcnt, hexp⟩ := h7 hs
  have hexp := hexp.trans (accExpects_append_of_ne (by omega) b).symm
  have hlen : accLength (append b s) = accLength s := accLength_append_of_ne (by omega) b
  have hcnt' := append_sdCnt_toNat hc b
  have hrem : (s.sdRem - 1).toNat = s.sdRem.toNat - 1 := by bv_omega
  by_cases hz : s.sdRem - 1 = 0
  · have hz' : (s.sdRem - 1).toNat = 0 := by rw [hz]; rfl
    have hrow : (append b s).sdCnt.toNat = 7 + accLength (append b s) := by omega
    exact .cksum1 (if_pos hz) hrow hz hexp
  · have hpos : 1 ≤ (s.sdRem - 1).toNat := by bv_omega
    have hle' : (s.sdRem - 1).toNat ≤ accLength (append b s) := by omega
    have hrow : (append b s).sdCnt.toNat = 7 + accLength (append b s) - (s.sdRem - 1).toNat := by omega
    exact .payload (if_neg hz) hpos hle' hrow hexp

/-- The first checksum byte leads from the row of state 8 to that of state 9 (R183). -/
theorem syncRow_cksum1 (hs : s.sdState = 8) (hc : s.sdCnt.toNat < 264) (h : SyncTable s) :
    SyncRow { append b s with sdState := 9, resp := some r } := by
  obtain ⟨-, -, -, -, -, h8, -⟩ := h
  obtain ⟨hcnt, hrem, hexp⟩ := h8 hs
  have hexp := hexp.trans (accExpects_append_of_ne (by omega) b).symm
  have hlen : accLength (append b s) = accLength s := accLength_append_of_ne (by omega) b
  have hrow : (append b s).sdCnt.toNat = 8 + accLength (append b s) := by
    rw [append_sdCnt_toNat hc, hlen]; omega
  exact .cksum2 rfl hrow hrem hexp

/-- A preamble byte leads from state 0, 1, 2 or 3 to the row of the next state (R174 to R177). -/
theorem syncRow_sync (h3 : s.sdState.toNat ≤ 3) (h : SyncTable s) :
    SyncRow { append b s with sdState := s.sdState + 1, resp := some r } := by
  obtain ⟨hcnt, hrem, hexp⟩ := h.early (by omega)
  have hst : (s.sdState + 1).toNat = s.sdState.toNat + 1 := by bv_omega
  have h1 : 1 ≤ (s.sdState + 1).toNat := by omega
  have h4 : (s.sdState + 1).toNat ≤ 4 := by omega
  have hcnt' : (append b s).sdCnt.toNat = (s.sdState + 1).toNat := by
    rw [append_sdCnt_toNat (by omega), hcnt, hst]
  exact .sync h1 h4 hcnt' hrem hexp

end

/-- Every arm of SD.PROCESS keeps the invariant: it resets, or leads to a row by an append. -/
theorem ProcessStep.inv {b : Byte} {s t : State} (h : ProcessStep b s t) (hi : Inv s) : Inv t := by
  have ⟨htab, _, _⟩ := hi
  cases h with
  | syncFirst hs hb hc =>
    obtain ⟨hcnt, -⟩ := htab.early (by simp [hs])
    have hrow := syncRow_sync (b := b) (r := {}) (by simp [hs]) htab
    rw [hs] at hcnt hrow
    exact inv_of_append hi hc rfl rfl (fun _ => by rw [hcnt, hb]; rfl) (by simp [hcnt]) hrow
  | syncDiscard hs hb => exact hi
  | syncNext h1 h3 hb hc =>
    obtain ⟨hcnt, -⟩ := htab.early (by omega)
    exact inv_of_append hi hc rfl rfl (fun _ => hcnt ▸ hb) (by omega) (syncRow_sync h3 htab)
  | statusAccept hs hb hc =>
    obtain ⟨hcnt, -⟩ := htab.early (by simp [hs])
    exact inv_of_append hi hc rfl rfl (by simp [hcnt, hs]) (fun _ => hb) (syncRow_status hs htab)
  | command hs hc => exact inv_of_append_late hi hc (by simp [hs]) rfl rfl (syncRow_command hs htab)
  | length hs hc => exact inv_of_append_late hi hc (by simp [hs]) rfl rfl (syncRow_length hs htab)
  | payload hs hc => exact inv_of_append_late hi hc (by simp [hs]) rfl rfl (syncRow_payload hs hc htab)
  | cksum1 hs hc => exact inv_of_append_late hi hc (by simp [hs]) rfl rfl (syncRow_cksum1 hs hc htab)
  | syncMismatch | statusDrop | cksum2 | unexpected => exact inv_of_atRest ⟨rfl, rfl, rfl, rfl⟩

/-- A command keeps the invariant. -/
theorem exec_inv {i : Instr} {s t : State} (h : exec i s = .next t) (hi : Inv s) : Inv t := by
  obtain ⟨b, rfl, hp⟩ | ⟨rfl, rfl⟩ | ⟨c, r, -, rfl⟩ := exec_next_cases h
  · exact hp.inv hi
  · exact inv_of_atRest ⟨rfl, rfl, rfl, rfl⟩
  · exact hi

theorem runCommand_inv {w : Word} {o : Operand} {s t : State} (h : runCommand w o s = .next t)
    (hi : Inv s) : Inv t := by
  obtain ⟨-, ⟨i, -, hx⟩ | ⟨-, rfl⟩⟩ := runCommand_next_cases h
  · exact exec_inv hx hi
  · exact hi

/-- A step keeps the invariant. -/
theorem step_inv {s t : State} (h : step s = .next t) (hi : Inv s) : Inv t := by
  obtain ⟨-, rfl⟩ | ⟨rest, -, rfl⟩ | ⟨w, o, rest, -, hx⟩ := step_next_cases h
  · exact hi
  · exact inv_of_atRest ⟨rfl, rfl, rfl, rfl⟩
  · exact runCommand_inv hx hi

/-- Settles O13: each way a step can go keeps the rows of R31's table and the held preamble. -/
theorem stepKeepsInvariant : Obligations.StepKeepsInvariant :=
  ⟨fun _ _ hi h => step_inv h hi, fun _ ⟨htab, _, _⟩ => htab.sdCnt_le⟩

/-- Settles O12: reset leaves the stream-sync unit at rest. -/
theorem resetMeetsInvariant : Obligations.ResetMeetsInvariant := inv_of_atRest ⟨rfl, rfl, rfl, rfl⟩

/-! ## Progress -/

/-- R189: in state 9 the last byte makes the buffer as long as its length byte says. -/
theorem decodeFrame_accBuffer_ok {s : State} (hs : s.sdState = 9) (h : SyncTable s) (b : Byte) :
    ∃ fr, decodeFrame (accBuffer s ++ [b]) = .ok fr := by
  obtain ⟨-, -, -, -, -, -, h9, -⟩ := h
  obtain ⟨hcnt, -, -⟩ := h9 hs
  have hL : accLength s ≤ 255 := Nat.le_of_lt_succ (s.sdAcc[6]).isLt
  have hlen : (accBuffer s ++ [b]).length = 9 + accLength s := by
    rw [List.length_append, length_accBuffer_of_le (by omega), hcnt, List.length_singleton]; omega
  have hbyte : bufLength (accBuffer s ++ [b]) = s.sdAcc[6] := by
    rw [← byteAt_accBuffer (by omega) (by omega), bufLength, byteAt, byteAt,
      List.getD_append _ _ _ _ (by rw [length_accBuffer]; omega)]
  exact ⟨_, decodeFrame_of_verify_ok (verifyBuffer_ok (by omega) (by rw [hbyte, hlen, Nat.add_sub_cancel_left]))⟩

/-- No command stops in a state of the invariant. -/
theorem exists_exec_of_inv (i : Instr) {s : State} (hi : Inv s) : ∃ t, exec i s = .next t := by
  obtain hp | ⟨b, rfl⟩ | rfl | rfl | ⟨b, rfl⟩ := instr_classes i
  · exact ⟨_, exec_pure hp s⟩
  · obtain ⟨htab, -, -⟩ := hi
    obtain ⟨t, ht⟩ := exists_processStep (b := b) (Nat.lt_succ_of_le htab.sdCnt_le)
      fun hs => decodeFrame_accBuffer_ok hs htab b
    exact ⟨t, exec_sdProcess_iff.2 ht⟩
  · exact ⟨_, exec_sdReset_eq s⟩
  · exact ⟨_, exec_crcInit_eq s⟩
  · exact ⟨_, exec_crcUpdate_eq b s⟩

/-- A command word with an operand that can be presented completes in a state of the invariant. -/
theorem exists_runCommand_of_inv (w : Word) {o : Operand} {s : State} (hi : Inv s)
    (hp : o.presentable = true) : ∃ t, runCommand w o s = .next t := by
  cases hd : Sys2Proof.decode w o with
  | ok i => rw [runCommand_of_decode hp hd]; exact exists_exec_of_inv i hi
  | error e => exact ⟨_, runCommand_of_illegal hp hd s⟩

/-- A step with presentable inputs completes in a state of the invariant. -/
theorem exists_step_of_inv {s : State} (hi : Inv s) (hin : InputsPresentable s) :
    ∃ t, step s = .next t := by
  cases hs : s.inputs with
  | nil => exact ⟨_, step_of_nil hs⟩
  | cons inp rest =>
    cases inp with
    | blockReset => exact ⟨_, step_of_blockReset hs⟩
    | command w o =>
      rw [step_of_command hs]
      exact exists_runCommand_of_inv w hi (hin (.command w o) (by simp [hs]))

/-- A step leaves no pending input that was not pending before. -/
theorem step_inputsPresentable {s t : State} (h : step s = .next t) (hin : InputsPresentable s) :
    InputsPresentable t := by
  intro inp hmem
  rw [(step_params_inputs h).2] at hmem
  exact hin inp (List.mem_of_mem_tail hmem)

/-- Settles O14: progress from the invariant, with the invariant and the queue kept. -/
theorem stepNeverStops : Obligations.StepNeverStops := by
  intro s hi hin
  obtain ⟨t, ht⟩ := exists_step_of_inv hi hin
  exact ⟨t, ht, step_inv ht hi, step_inputsPresentable ht hin⟩

/-! ## States outside the invariant -/

/-- Where an arm of SD.PROCESS appends: on a byte of the preamble in its place, on an accepted status byte,
and on every byte of states 5 to 9. -/
def Appends (b : Byte) (s : State) : Prop :=
  Config.sync[s.sdState.toNat]? = some b ∨ (s.sdState = 4 ∧ illegalRequest b = false) ∨
    (5 ≤ s.sdState.toNat ∧ s.sdState.toNat ≤ 9)

/-- An arm that appends begins with the test for room. -/
theorem execSdProcess_eq_appendThen {b : Byte} {s : State} (h : Appends b s) :
    ∃ u k, u.sdCnt = s.sdCnt ∧ execSdProcess b s = appendThen b u k := by
  obtain hb | ⟨hs, hb⟩ | ⟨h5, h9⟩ := h
  · have h3 : s.sdState.toNat < 4 := (List.getElem?_eq_some_iff.1 hb).1
    by_cases h1 : 1 ≤ s.sdState.toNat
    · rw [execSdProcess_sync h1 (Nat.le_of_lt_succ h3) hb, processSync, if_pos rfl]
      exact ⟨s, _, rfl, rfl⟩
    · have hs : s.sdState = 0 := by bv_omega
      obtain rfl : 0x55 = b := by simpa [hs, Config.sync] using hb
      rw [execSdProcess_at0 hs, processSync1, if_pos rfl]
      exact ⟨s, _, rfl, rfl⟩
  · rw [execSdProcess_at4 hs, processStatus, if_neg (by simp [hb])]
    exact ⟨{ s with sdExp := b.getLsbD 7 }, _, rfl, rfl⟩
  · obtain hs | hs | hs | hs | hs :
        s.sdState = 5 ∨ s.sdState = 6 ∨ s.sdState = 7 ∨ s.sdState = 8 ∨ s.sdState = 9 := by bv_omega
    · exact ⟨s, _, rfl, execSdProcess_at5 hs b⟩
    · exact ⟨s, _, rfl, execSdProcess_at6 hs b⟩
    · exact ⟨s, _, rfl, execSdProcess_at7 hs b⟩
    · exact ⟨s, _, rfl, execSdProcess_at8 hs b⟩
    · exact ⟨s, _, rfl, execSdProcess_at9 hs b⟩

/-- Without room an append faults by name (log entry 9). -/
theorem exec_sdProcess_full {b : Byte} {s : State} (h : Appends b s) (hc : 264 ≤ s.sdCnt.toNat) :
    exec (.sdProcess b) s = .fault .accumulatorFull := by
  obtain ⟨u, k, hcnt, heq⟩ := execSdProcess_eq_appendThen h
  rw [exec, heq, appendThen_of_ge (hcnt ▸ hc)]

/-- A completed buffer that does not decode faults by name (log entry 10). -/
theorem exec_sdProcess_malformed {b : Byte} {s : State} {e : FramingError} (hs : s.sdState = 9)
    (hc : s.sdCnt.toNat < 264) (he : decodeFrame (accBuffer s ++ [b]) = .error e) :
    exec (.sdProcess b) s = .fault .accumulatedFrameMalformed := by
  rw [exec, execSdProcess_at9 hs, processCksum2, appendThen_of_lt hc, accBuffer_append hc, he]

/-- In state 7 a remaining count of 0 wraps (log entry 11). -/
theorem exec_sdProcess_wraps {b : Byte} {s : State} (hs : s.sdState = 7) (hr : s.sdRem = 0)
    (hc : s.sdCnt.toNat < 264) :
    exec (.sdProcess b) s = .next { append b s with sdRem := 0xFF, resp := some {} } := by
  have hp := ProcessStep.payload (b := b) hs hc
  rw [hr, show (0 : Byte) - 1 = 0xFF from rfl, if_neg (by decide), ← hs] at hp
  exact exec_sdProcess_iff.2 hp

/-- Settles O44: the appends without room, the buffer that does not decode and the wrapped count. -/
theorem statesOutsideInvariant : Obligations.StatesOutsideInvariant :=
  ⟨fun _ _ h5 h9 hc => exec_sdProcess_full (.inr (.inr ⟨h5, h9⟩)) hc,
    fun _ _ _ hb hc => exec_sdProcess_full (.inl hb) hc,
    fun _ _ hs hb hc => exec_sdProcess_full (.inr (.inl ⟨hs, hb⟩)) hc,
    fun _ _ _ hs hc he => exec_sdProcess_malformed hs hc he,
    fun _ _ hs hr hc => exec_sdProcess_wraps hs hr hc⟩

end Sys2Proof.Machine
end

section

namespace Sys2Proof.Machine

/-! ## Commands that may be repeated (R60) -/

/-- No reply reads the response of the input before it. -/
theorem pureReply_with_resp (s : State) (r : Option Response) (i : Instr) :
    pureReply { s with resp := r } i = pureReply s i := by
  cases i <;> rfl

/-- A command without side effects gives its own answer again from the state it left. -/
theorem exec_pure_repeat {i : Instr} (hi : isPure i = true) (s : State) :
    exec i { s with resp := some (pureReply s i) } = .next { s with resp := some (pureReply s i) } := by
  rw [exec_pure hi, pureReply_with_resp s (some (pureReply s i)) i]

theorem exec_sdReset_idempotent {s t : State} (h : exec .sdReset s = .next t) :
    exec .sdReset t = .next t := by
  rw [exec_sdReset_eq] at h
  cases h
  rfl

theorem exec_crcInit_idempotent {s t : State} (h : exec .crcInit s = .next t) :
    exec .crcInit t = .next t := by
  rw [exec_crcInit_eq] at h
  cases h
  rfl

/-- Settles O54: the response is `pureReply`, which reads no earlier response, so it comes again; SD.RESET
and CRC.INIT write fixed values. -/
theorem pureCommandsWriteOnlyTheResponse : Obligations.PureCommandsWriteOnlyTheResponse :=
  ⟨fun i s hi => ⟨pureReply s i, exec_pure hi s, exec_pure_repeat hi s⟩,
    fun _ _ h => exec_sdReset_idempotent h, fun _ _ h => exec_crcInit_idempotent h⟩

/-! ## Taking the oldest input -/

/-- Settles O1: the step takes the command word, and the word runs the command it decodes to. -/
theorem stepRunsTheDecodedCommand : Obligations.StepRunsTheDecodedCommand := by
  intro s w o rest i hin hp hd
  rw [step_of_command hin, runCommand_of_decode hp hd]

/-- Settles O2: the wait of an empty port (log entry 3). -/
theorem emptyPortWaits : Obligations.EmptyPortWaits := fun _ h => step_of_nil h

end Sys2Proof.Machine
end

section

namespace Sys2Proof

/-! ## What the tests of the decoder let through (R73, R80) -/

@[simp] theorem requireNoForce_eq_ok_iff {w : Word} {k : Except IllegalReason Instr} {i : Instr} :
    requireNoForce w k = .ok i ↔ forceField w = false ∧ k = .ok i := by
  unfold requireNoForce; split <;> simp_all

@[simp] theorem requireNoData_eq_ok_iff {w : Word} {k : Except IllegalReason Instr} {i : Instr} :
    requireNoData w k = .ok i ↔ dField w = 0 ∧ k = .ok i := by
  unfold requireNoData; split <;> simp_all

@[simp] theorem requireNone_eq_ok_iff {o : Operand} {j i : Instr} :
    requireNone o j = .ok i ↔ o = .none ∧ j = i := by
  cases o <;> simp [requireNone]

@[simp] theorem requireBytes_eq_ok_iff {o : Operand} {f : List Byte → Instr} {i : Instr} :
    requireBytes o f = .ok i ↔ ∃ s, o = .bytes s ∧ f s = i := by
  cases o <;> simp [requireBytes]

@[simp] theorem requireFrame_eq_ok_iff {o : Operand} {f : FrameOperand → Instr} {i : Instr} :
    requireFrame o f = .ok i ↔ ∃ fr, o = .frame fr ∧ f fr = i := by
  cases o <;> simp [requireFrame]

@[simp] theorem decode_eq_ok_iff {w : Word} {o : Operand} {i : Instr} :
    decode w o = .ok i ↔ zField w = 0 ∧ decodeOp w o = .ok i := by
  unfold decode; split <;> simp_all

/-! ## Encoding and decoding are inverse -/

/-- The port can carry a command's operand exactly when the command is well formed (R70). -/
theorem presentable_encode (i : Instr) : (encode i).2.presentable = i.wf := by
  cases i <;> rfl

/-- The fields of the encoded word select the command's own arm of the opcode map (R73). -/
theorem decode_encode (i : Instr) : decode (encode i).1 (encode i).2 = .ok i := by
  cases i <;> simp [encode, decodeOp]

/-- Settles O5: each command passes the tests of its own row of the opcode map. -/
theorem decodeOfEncode : Obligations.DecodeOfEncode := fun i =>
  ⟨decode_encode i, fun hwf => (presentable_encode i).trans hwf⟩

/-- The word with `Z = 0` whose other fields are known (R71). -/
theorem mkWord_of_fields {w : Word} {k : Nat} {f : Bool} {d : Byte} (hz : zField w = 0)
    (hop : (opField w).toNat = k) (hf : forceField w = f) (hd : dField w = d) :
    mkWord (BitVec.ofNat 4 k) f d = w := by
  rw [← opField_eq_ofNat hop, ← hf, ← hd, mkWord_fields w hz]

/-- The cases are the rows of R73, gathered by the columns `F`, `D` and operand that they test. -/
theorem encode_of_decode {w : Word} {o : Operand} {i : Instr} (h : decode w o = .ok i) :
    encode i = (w, o) := by
  obtain ⟨hz, h⟩ := decode_eq_ok_iff.1 h
  unfold decodeOp at h
  split at h
  case h_1 hop | h_5 hop | h_7 hop | h_11 hop =>
    obtain ⟨hf, rfl, rfl⟩ := by simpa using h
    exact Prod.ext (mkWord_of_fields hz hop hf rfl) rfl
  case h_2 hop | h_3 hop | h_4 hop | h_6 hop =>
    obtain ⟨hf, hd, rfl, rfl⟩ := by simpa using h
    exact Prod.ext (mkWord_of_fields hz hop hf hd) rfl
  case h_8 hop | h_9 hop | h_13 hop =>
    obtain ⟨hf, hd, s, rfl, rfl⟩ := by simpa using h
    exact Prod.ext (mkWord_of_fields hz hop hf hd) rfl
  case h_10 hop =>
    obtain ⟨rfl, rfl⟩ := by simpa using h
    exact Prod.ext (mkWord_of_fields hz hop rfl rfl) rfl
  case h_12 hop =>
    obtain ⟨hd, fr, rfl, rfl⟩ := by simpa using h
    exact Prod.ext (mkWord_of_fields hz hop rfl hd) rfl
  case h_14 => cases h

/-- Settles O6: what a word and operand decode to encodes to them, and its operand is theirs. -/
theorem encodeOfDecode : Obligations.EncodeOfDecode := by
  intro w o i h
  have he := encode_of_decode h
  refine ⟨he, fun hp => ?_⟩
  rw [← presentable_encode, he, hp]

/-! ## Illegal by fields (R80) -/

@[simp] theorem exists_requireNoForce_error_iff {w : Word} {k : Except IllegalReason Instr} :
    (∃ e, requireNoForce w k = .error e) ↔ forceField w = true ∨ ∃ e, k = .error e := by
  unfold requireNoForce; split <;> simp_all

@[simp] theorem exists_requireNoData_error_iff {w : Word} {k : Except IllegalReason Instr} :
    (∃ e, requireNoData w k = .error e) ↔ dField w ≠ 0 ∨ ∃ e, k = .error e := by
  unfold requireNoData; split <;> simp_all

@[simp] theorem exists_requireNone_error_iff {o : Operand} {i : Instr} :
    (∃ e, requireNone o i = .error e) ↔ o.kind ≠ .none := by
  cases o <;> simp [requireNone, Operand.kind]

@[simp] theorem exists_requireBytes_error_iff {o : Operand} {f : List Byte → Instr} :
    (∃ e, requireBytes o f = .error e) ↔ o.kind ≠ .bytes := by
  cases o <;> simp [requireBytes, Operand.kind]

@[simp] theorem exists_requireFrame_error_iff {o : Operand} {f : FrameOperand → Instr} :
    (∃ e, requireFrame o f = .error e) ↔ o.kind ≠ .frame := by
  cases o <;> simp [requireFrame, Operand.kind]

/-- The tests of each `OP` are the clauses of R80 that concern it. -/
theorem exists_decodeOp_error_iff {w : Word} {o : Operand} (hz : zField w = 0) :
    (∃ e, decodeOp w o = .error e) ↔ IllegalByFields w o := by
  unfold decodeOp IllegalByFields
  generalize hk : (opField w).toNat = k
  have hlt : k < 16 := by rw [← hk]; exact (opField w).isLt
  interval_cases k <;> simp [hz, operandKindOf]

theorem exists_decode_error_iff {w : Word} {o : Operand} :
    (∃ e, decode w o = .error e) ↔ IllegalByFields w o := by
  by_cases hz : zField w = 0
  · rw [decode, if_pos hz]; exact exists_decodeOp_error_iff hz
  · exact iff_of_true ⟨.reservedZ, if_neg hz⟩ (.inr (.inr (.inr (.inl hz))))

/-- Settles O3: R80's list is what the tests of the decoder reject, and an illegal command raises its error
on the state with the input taken. -/
theorem illegalCommandsChangeNothing : Obligations.IllegalCommandsChangeNothing := by
  refine ⟨fun _ _ => exists_decode_error_iff, fun s w o rest hin hp hill => ?_⟩
  obtain ⟨e, he⟩ := exists_decode_error_iff.2 hill
  rw [Machine.step_of_command hin, Machine.runCommand_of_illegal hp he]

/-- The command a word and operand decode to, unless R80 lists them. -/
theorem exists_decode_ok_iff {w : Word} {o : Operand} :
    (∃ i, decode w o = .ok i) ↔ ¬ IllegalByFields w o := by
  rw [← exists_decode_error_iff]
  cases decode w o <;> simp

/-! ## The match and mask table (R74) -/

/-- Every command's encoding is on the row of its mnemonic. -/
theorem encoding_on_row (i : Instr) : Laws.EncodingOnItsTableRow.Statement i := by
  cases i with
  | sdProcess b => exact Laws.EncodingOnItsTableRow.sdProcess b
  | sdReset => exact Laws.EncodingOnItsTableRow.sdReset
  | sdState => exact Laws.EncodingOnItsTableRow.sdState
  | crcInit => exact Laws.EncodingOnItsTableRow.crcInit
  | crcUpdate b => exact Laws.EncodingOnItsTableRow.crcUpdate b
  | crcRead => exact Laws.EncodingOnItsTableRow.crcRead
  | crcTable i => exact Laws.EncodingOnItsTableRow.crcTable i
  | checksum s => exact Laws.EncodingOnItsTableRow.checksum s
  | verify buf => exact Laws.EncodingOnItsTableRow.verify buf
  | packStatus force f => exact Laws.EncodingOnItsTableRow.packStatus force f
  | unpackStatus s => exact Laws.EncodingOnItsTableRow.unpackStatus s
  | encode force fr => exact Laws.EncodingOnItsTableRow.encode force fr
  | decode buf => exact Laws.EncodingOnItsTableRow.decode buf

/-- What a row of R74 fixes, by the columns of R73: `OP` and `Z` always, `F` and `D` where they must be 0. -/
abbrev TableRow.FixesFields (r : TableRow) : Prop :=
  opField r.mask = BitVec.allOnes 4 ∧
  (opField r.matchBits).toNat ≠ 0 ∧ (opField r.matchBits).toNat < 14 ∧
  zField r.mask = BitVec.allOnes 3 ∧ zField r.matchBits = 0 ∧
  ((opField r.matchBits).toNat ≠ 10 → (opField r.matchBits).toNat ≠ 12 →
    forceField r.mask = true ∧ forceField r.matchBits = false) ∧
  ((opField r.matchBits).toNat ∈ [2, 3, 4, 6, 8, 9, 12, 13] →
    dField r.mask = BitVec.allOnes 8 ∧ dField r.matchBits = 0) ∧
  r.operand = operandKindOf (opField r.matchBits).toNat

theorem fixesFields_of_mem : ∀ r ∈ commandTable, r.FixesFields := by decide

@[simp] theorem TableRow.accepts_iff {r : TableRow} {w : Word} {o : Operand} :
    r.accepts w o = true ↔ w &&& r.mask = r.matchBits ∧ o.kind = r.operand := by
  simp [TableRow.accepts]

/-- A row fixes the `OP` of the words it matches. -/
theorem TableRow.FixesFields.opField_eq {r : TableRow} {w : Word} (hr : r.FixesFields)
    (hw : w &&& r.mask = r.matchBits) : opField w = opField r.matchBits := by
  obtain ⟨hmask, -⟩ := hr
  rw [← hw, opField_and, hmask, BitVec.and_allOnes]

/-- No clause of R80 holds of what a row accepts. -/
theorem TableRow.FixesFields.not_illegalByFields {r : TableRow} {w : Word} {o : Operand}
    (hr : r.FixesFields) (hw : w &&& r.mask = r.matchBits) (hk : o.kind = r.operand) :
    ¬ IllegalByFields w o := by
  have hop := hr.opField_eq hw
  obtain ⟨-, h0, h14, hzm, hzb, hf, hd, hkind⟩ := hr
  rw [IllegalByFields, hop]
  rintro (h | h | h | hz | ⟨hF, h10, h12⟩ | ⟨hD, hmem⟩ | hK)
  · exact h0 h
  · omega
  · omega
  · apply hz
    rw [← hzb, ← hw, zField_and, hzm, BitVec.and_allOnes]
  · obtain ⟨hfm, hfb⟩ := hf h10 h12
    rw [← hw, forceField_and, hF, hfm] at hfb
    cases hfb
  · obtain ⟨hdm, hdb⟩ := hd hmem
    apply hD
    rw [← hdb, ← hw, dField_and, hdm, BitVec.and_allOnes]
  · exact hK (hk.trans hkind)

/-- A command that decodes is on the row of its mnemonic. -/
theorem exists_row_of_decode {w : Word} {o : Operand} {i : Instr} (h : decode w o = .ok i) :
    ∃ r ∈ commandTable, r.accepts w o = true ∧ r.mnemonic = i.mnemonic := by
  obtain ⟨r, hr, hm, ha⟩ := encoding_on_row i
  rw [encode_of_decode h] at ha
  exact ⟨r, hr, ha, hm⟩

theorem exists_decode_of_row {w : Word} {o : Operand} {r : TableRow} (hr : r ∈ commandTable)
    (ha : r.accepts w o = true) : ∃ i, decode w o = .ok i := by
  obtain ⟨hw, hk⟩ := TableRow.accepts_iff.1 ha
  exact exists_decode_ok_iff.2 ((fixesFields_of_mem r hr).not_illegalByFields hw hk)

/-- The rows differ in `OP`, which each of them fixes. -/
theorem commandTable_disjoint :
    commandTable.Pairwise fun r q =>
      ∀ w : Word, ¬ (w &&& r.mask = r.matchBits ∧ w &&& q.mask = q.matchBits) := by
  have hne : commandTable.Pairwise fun r q => opField r.matchBits ≠ opField q.matchBits := by decide
  refine hne.imp_of_mem fun {r q} hr hq hop w ⟨hwr, hwq⟩ => hop ?_
  rw [← (fixesFields_of_mem r hr).opField_eq hwr, (fixesFields_of_mem q hq).opField_eq hwq]

/-- Settles O4: from a command to the row of its encoding, and from a row to a word R80 does not list. -/
theorem legalExactlyByOneTableRow : Obligations.LegalExactlyByOneTableRow := by
  refine ⟨fun w o => ⟨?_, ?_⟩, fun w o i => exists_row_of_decode, commandTable_disjoint⟩
  · rintro ⟨i, hi⟩
    obtain ⟨r, hr, ha, -⟩ := exists_row_of_decode hi
    exact ⟨r, hr, ha⟩
  · rintro ⟨r, hr, ha⟩
    exact exists_decode_of_row hr ha

end Sys2Proof

namespace Sys2Proof.Machine

/-! ## Issuing assembly lines -/

/-- A step on the encoding of a well-formed command runs the command. -/
theorem step_ofInstr {s : State} {i : Instr} {rest : List Input} (hin : s.inputs = Input.ofInstr i :: rest)
    (hwf : i.wf = true) : step s = exec i { s with inputs := rest } :=
  stepRunsTheDecodedCommand s _ _ rest i hin ((presentable_encode i).trans hwf) (decode_encode i)

/-- CRC.BYTES followed by CRC.READ answers with the fold of the bytes, after an empty response for each. -/
theorem collect_crcBytes_crcRead (bs : List Byte) (s : State)
    (hin : s.inputs = (bs.map Instr.crcUpdate ++ [Instr.crcRead]).map Input.ofInstr) :
    collect (bs.length + 1) s =
      some (List.replicate bs.length ({} : Response) ++ [{ data16 := crcFold s.crc bs }],
        { s with crc := crcFold s.crc bs, inputs := [], resp := some { data16 := crcFold s.crc bs } }) := by
  induction bs generalizing s with
  | nil => exact collect_succ_iff.2 ⟨_, [], step_ofInstr hin rfl, rfl, rfl⟩
  | cons b bs ih => exact collect_succ_iff.2 ⟨_, _, step_ofInstr hin rfl, ih _ rfl, rfl⟩

/-- CRC.OF ends with the checksum of its bytes in the response and in `CRC`, after empty responses. -/
theorem collect_crcOf {bs : List Byte} {s : State} (hin : s.inputs = (AsmLine.crcOf bs).inputs) :
    collect (bs.length + 2) s =
      some (List.replicate (bs.length + 1) ({} : Response) ++ [{ data16 := crc16 bs }],
        { s with crc := crc16 bs, inputs := [], resp := some { data16 := crc16 bs } }) :=
  collect_succ_iff.2 ⟨_, _, step_ofInstr hin rfl, collect_crcBytes_crcRead bs _ rfl, rfl⟩

/-- Settles O26: the expansions are the definition's, and the run of CRC.OF is `collect_crcOf`. -/
theorem pseudoInstructionsExpand : Obligations.PseudoInstructionsExpand :=
  ⟨fun _ => rfl, fun _ => rfl, fun _ => rfl, fun _ _ hin =>
    ⟨_, _, collect_crcOf hin, List.getLast?_concat, rfl, rfl, rfl, rfl, rfl, rfl, rfl⟩⟩

/-- Settles O7: each word is the encoding of its command. -/
theorem writtenOutWordsDecode : Obligations.WrittenOutWordsDecode :=
  ⟨decode_encode (.sdProcess 0x55), decode_encode .sdReset, decode_encode (.crcUpdate 0x42),
    decode_encode (.verify [0x55]), decode_encode (.packStatus true 0x84),
    decode_encode (.encode true ⟨0x01, 0x00, 0, []⟩)⟩

/-- Settles O8: each word is built of literal fields, and a payload of at most 255 bytes has its length in a
byte. -/
theorem assemblerWords : Obligations.AssemblerWords := by
  refine ⟨fun b bs => ⟨rfl, rfl, rfl, rfl, rfl, rfl, rfl, rfl, rfl, rfl, rfl, rfl, rfl⟩, fun c f p hp => ?_⟩
  exact ⟨BitVec.ofNat 8 p.length, Nat.mod_eq_of_lt (by omega), rfl, rfl⟩

/-! ## Operands that cannot be presented -/

theorem runCommand_of_unpresentable {o : Operand} {r : Refusal} (h : unpresentable o = some r) (w : Word)
    (s : State) : runCommand w o s = .refused r := by
  rw [runCommand, h]

/-- Settles O9: the port's test stands before the decoder, so the word is not read. -/
theorem unpresentableOperandsAreRefused : Obligations.UnpresentableOperandsAreRefused := by
  refine ⟨fun s w bs rest hin hlen => ?_, fun s w fr rest hin hne => ?_⟩
  · have hu : unpresentable (.bytes bs) = some .operandTooLong :=
      if_neg (mt of_decide_eq_true (Nat.not_le_of_lt hlen))
    rw [step_of_command hin, runCommand_of_unpresentable hu]
  · have hu : unpresentable (.frame fr) = some .payloadNotLen :=
      if_neg (mt of_decide_eq_true hne)
    rw [step_of_command hin, runCommand_of_unpresentable hu]

/-! ## Response codes -/

theorem Tri.code_ne_three (t : Tri) : t.code ≠ 3 := by
  cases t <;> decide

theorem Diag.code_ne_three (d : Diag) : d.code ≠ 3 := by
  cases d <;> decide

/-- Settles O10: the codes are the definitions' and none of the three constructors has code 3. -/
theorem responseCodes : Obligations.ResponseCodes :=
  ⟨⟨rfl, rfl, rfl, rfl⟩, ⟨rfl, rfl, rfl, Tri.code_ne_three⟩, ⟨rfl, rfl, rfl, Diag.code_ne_three⟩⟩

end Sys2Proof.Machine
end

section

namespace Sys2Proof.Machine

/-! ## The bit-serial update (R100, R102) -/

theorem crcRound_of_true {v : Word} (h : v.getLsbD 15 = true) :
    crcRound v = (v <<< 1) ^^^ Config.crcPoly := if_pos h

theorem crcRound_of_false {v : Word} (h : v.getLsbD 15 = false) : crcRound v = v <<< 1 :=
  if_neg (Bool.eq_false_iff.1 h)

/-- The update is linear over XOR: the polynomial is taken in exactly when one of the top bits is set. -/
theorem crcRound_xor (v w : Word) : crcRound (v ^^^ w) = crcRound v ^^^ crcRound w := by
  unfold crcRound
  rw [BitVec.getLsbD_xor, BitVec.shiftLeft_xor_distrib]
  cases v.getLsbD 15 <;> cases w.getLsbD 15
  · rfl
  · exact BitVec.xor_assoc ..
  · show (v <<< 1 ^^^ w <<< 1) ^^^ Config.crcPoly = (v <<< 1 ^^^ Config.crcPoly) ^^^ w <<< 1
    ac_rfl
  · show v <<< 1 ^^^ w <<< 1 = (v <<< 1 ^^^ Config.crcPoly) ^^^ (w <<< 1 ^^^ Config.crcPoly)
    rw [BitVec.xor_comm (w <<< 1), BitVec.xor_assoc, ← BitVec.xor_assoc Config.crcPoly, BitVec.xor_self,
      BitVec.zero_xor]

theorem crcRounds_xor (n : Nat) (v w : Word) :
    crcRounds n (v ^^^ w) = crcRounds n v ^^^ crcRounds n w := by
  induction n generalizing v w with
  | zero => rfl
  | succ n ih => rw [crcRounds, crcRounds, crcRounds, crcRound_xor, ih]

/-- Bit 0 of the polynomial is set, so the bit that a round shifts out can be read off its result. -/
theorem eq_zero_of_crcRound_eq_zero {v : Word} (h : crcRound v = 0) : v = 0 := by
  cases htop : v.getLsbD 15 with
  | true =>
    rw [crcRound_of_true htop] at h
    have hbit := congrArg (fun u => u.getLsbD 0) h
    simp [Config.crcPoly] at hbit
  | false =>
    rw [crcRound_of_false htop] at h
    have hlt : v.toNat < 2 ^ 15 := BitVec.toNat_lt_of_msb_false htop
    bv_omega

theorem crcRound_injective : Function.Injective crcRound := fun v w h => by
  have hzero : crcRound (v ^^^ w) = 0 := by rw [crcRound_xor, h]; exact BitVec.xor_self
  exact BitVec.xor_eq_zero_iff.1 (eq_zero_of_crcRound_eq_zero hzero)

theorem crcRounds_injective (n : Nat) : Function.Injective (crcRounds n) := by
  induction n with
  | zero => exact Function.injective_id
  | succ n ih => exact ih.comp crcRound_injective

/-- Rounds that shift out only zeros are shifts. -/
theorem crcRounds_of_lt {n : Nat} {v : Word} (h : v.toNat * 2 ^ n < 2 ^ 16) :
    crcRounds n v = v <<< n := by
  induction n generalizing v with
  | zero => simp [crcRounds]
  | succ n ih =>
    rw [pow_succ', ← mul_assoc] at h
    have hlt : v.toNat * 2 < 2 ^ 16 := lt_of_le_of_lt (Nat.le_mul_of_pos_right _ (Nat.two_pow_pos n)) h
    have hshift : (v <<< 1).toNat = v.toNat * 2 := by
      rw [BitVec.toNat_shiftLeft, Nat.shiftLeft_eq, pow_one, Nat.mod_eq_of_lt hlt]
    have htop : v.getLsbD 15 = false := Nat.testBit_lt_two_pow (show v.toNat < 2 ^ 15 by omega)
    rw [crcRounds, crcRound_of_false htop, ih (by rwa [hshift]), ← BitVec.shiftLeft_add, Nat.add_comm]

/-! ## The table and the step -/

/-- The rounds of the table on the register and the byte contribution are the bit-serial rounds on their
XOR, the one-register reading of R100. -/
theorem crcTableRounds_xor (n : Nat) (r c : Word) :
    crcTableRounds n r c ^^^ (c <<< n) = crcRounds n (r ^^^ c) := by
  induction n generalizing r c with
  | zero => simp [crcTableRounds, crcRounds]
  | succ n ih =>
    have hround : (if (r ^^^ c).getLsbD 15 then (r <<< 1) ^^^ Config.crcPoly else r <<< 1) ^^^ (c <<< 1) =
        crcRound (r ^^^ c) := by
      unfold crcRound
      rw [BitVec.shiftLeft_xor_distrib]
      split
      · ac_rfl
      · rfl
    rw [crcTableRounds, crcRounds, ← hround, ← ih, ← BitVec.shiftLeft_add, Nat.add_comm]

theorem crcTable_eq_crcRounds (i : Byte) : crcTable i = crcRounds 8 (i.setWidth 16 <<< 8) := by
  have hout : (i.setWidth 16 <<< 8) <<< 8 = (0 : Word) := by
    rw [← BitVec.shiftLeft_add]; exact BitVec.shiftLeft_eq_zero (by omega)
  have h := crcTableRounds_xor 8 0 (i.setWidth 16 <<< 8)
  rw [hout] at h
  simpa [crcTable] using h

/-- The index of R102 is `c[15:8] XOR b`, and the 24-bit XOR is cut to 16 bits. -/
theorem crcStep_eq (c : Word) (b : Byte) :
    crcStep c b = (c <<< 8) ^^^ crcTable (c.extractLsb' 8 8 ^^^ b) := by
  have hmask : (0x00FF : Word).extractLsb' 0 8 = BitVec.allOnes 8 := by decide
  have hhigh : (c >>> 8).extractLsb' 0 8 = c.extractLsb' 8 8 := by ext; simp
  have hbyte : (b.setWidth 16).extractLsb' 0 8 = b :=
    (BitVec.extractLsb'_setWidth_of_le (by omega)).trans BitVec.extractLsb'_eq_self
  have hidx : (((c >>> 8) ^^^ b.setWidth 16) &&& 0x00FF).extractLsb' 0 8 = c.extractLsb' 8 8 ^^^ b := by
    rw [BitVec.extractLsb'_and, BitVec.extractLsb'_xor, hmask, BitVec.and_allOnes, hhigh, hbyte]
  have hshift : (c.setWidth 24 <<< 8).setWidth 16 = c <<< 8 := by ext; simp
  have htable (t : Word) : (t.setWidth 24).setWidth 16 = t := by simp
  rw [crcStep, hidx, BitVec.setWidth_xor, hshift, htable]

/-- A word is its low byte and its high byte. -/
theorem lowByte_xor_highByte (c : Word) :
    (c.extractLsb' 0 8).setWidth 16 ^^^ ((c.extractLsb' 8 8).setWidth 16 <<< 8) = c := by
  refine BitVec.eq_of_getLsbD_eq fun i hi => ?_
  by_cases h8 : i < 8
  · simp [h8, hi]
  · have hlt : i - 8 < 8 := by omega
    have hadd : 8 + (i - 8) = i := by omega
    simp [hi, h8, hlt, hadd]

theorem shiftLeft_lowByte (c : Word) : (c.extractLsb' 0 8).setWidth 16 <<< 8 = c <<< 8 := by
  refine BitVec.eq_of_getLsbD_eq fun i hi => ?_
  have h8 : i - 8 < 8 := by omega
  have h16 : i - 8 < 16 := by omega
  simp [h8, h16]

/-- The rounds shift the low byte of `c` out of their reach, and take the table's index from the top. -/
theorem crcStep_eq_crcRounds (c : Word) (b : Byte) :
    crcStep c b = crcRounds 8 (c ^^^ (b.setWidth 16 <<< 8)) := by
  have hlow : ((c.extractLsb' 0 8).setWidth 16).toNat * 2 ^ 8 < 2 ^ 16 := by
    have := (c.extractLsb' 0 8).isLt
    rw [BitVec.toNat_setWidth_of_le (by omega)]
    omega
  calc crcStep c b
    _ = (c.extractLsb' 0 8).setWidth 16 <<< 8 ^^^
          crcRounds 8 ((c.extractLsb' 8 8 ^^^ b).setWidth 16 <<< 8) := by
      rw [crcStep_eq, crcTable_eq_crcRounds, shiftLeft_lowByte]
    _ = crcRounds 8 ((c.extractLsb' 0 8).setWidth 16 ^^^ (c.extractLsb' 8 8 ^^^ b).setWidth 16 <<< 8) := by
      rw [crcRounds_xor, crcRounds_of_lt hlow]
    _ = crcRounds 8 (c ^^^ (b.setWidth 16 <<< 8)) := by
      rw [BitVec.setWidth_xor, BitVec.shiftLeft_xor_distrib, ← BitVec.xor_assoc, lowByte_xor_highByte]

/-- Settles O17: the table form is the definition's, and the low byte of `c`, which the 8 rounds do not
reach, is only shifted. -/
theorem crcStepIsBitSerial : Obligations.CrcStepIsBitSerial := fun c b =>
  ⟨crcStep_eq c b, crcStep_eq_crcRounds c b⟩

/-- Settles O16, entry by entry. -/
theorem crcTableListing : Obligations.CrcTableListing := by
  have hlength : crcListing.length = 256 := by decide +kernel
  have hentries : ∀ i : Byte, crcListing[i.toNat]? = some (crcTable i) := by decide +kernel
  exact ⟨hlength, hentries⟩

/-! ## A step and a fold lose nothing -/

theorem crcStep_left_injective (b : Byte) : Function.Injective (crcStep · b) := fun c d h => by
  simp only [crcStep_eq_crcRounds] at h
  exact (BitVec.xor_left_inj _).1 (crcRounds_injective 8 h)

theorem crcStep_right_injective (c : Word) : Function.Injective (crcStep c) := fun a b h => by
  simp only [crcStep_eq_crcRounds] at h
  have hshift := (BitVec.xor_right_inj _).1 (crcRounds_injective 8 h)
  bv_omega

theorem crcFold_injective (s : List Byte) : Function.Injective (crcFold · s) := by
  induction s with
  | nil => exact Function.injective_id
  | cons b s ih => exact ih.comp (crcStep_left_injective b)

/-- A changed byte changes the fold. -/
theorem set_eq_of_crcFold_set_eq {v : Word} {s : List Byte} {k : Nat} {b : Byte}
    (h : crcFold v (s.set k b) = crcFold v s) : s.set k b = s := by
  induction s generalizing k v with
  | nil => rfl
  | cons a s ih =>
    cases k with
    | zero => rw [List.set_cons_zero, crcStep_right_injective v (crcFold_injective s h)]
    | succ k => rw [List.set_cons_succ, ih h]

/-! ## Words as bytes -/

theorem fromBe16_eq_append (h l : Byte) : fromBe16 h l = h ++ l := by
  refine BitVec.eq_of_getLsbD_eq fun i hi => ?_
  rw [BitVec.getLsbD_append]
  by_cases h8 : i < 8
  · have h16 : i < 16 := by omega
    simp [fromBe16, h8, h16]
  · have hout : l.getLsbD i = false := BitVec.getLsbD_of_ge l i (by omega)
    simp [fromBe16, h8, hi, hout]

/-- The two bytes of `be16(v)` give `v` back (R13). -/
theorem fromBe16_extract (v : Word) : fromBe16 (v.extractLsb' 8 8) (v.extractLsb' 0 8) = v :=
  (fromBe16_eq_append _ _).trans BitVec.extractLsb'_append_extractLsb'

theorem be16_injective : Function.Injective be16 := fun v w h => by
  simp only [be16, List.cons.injEq, and_true] at h
  obtain ⟨hhigh, hlow⟩ := h
  rw [← fromBe16_extract v, ← fromBe16_extract w, hhigh, hlow]

theorem crc16_eq_of_checksum_eq {s t : List Byte} (h : checksum s = checksum t) : crc16 s = crc16 t :=
  be16_injective h

/-- Settles O18: the fold over `s ++ [b]` ends with a step on `b`. -/
theorem checksumFoldsFromTheSeed : Obligations.ChecksumFoldsFromTheSeed :=
  ⟨rfl, fun s b => crcFold_append _ s [b], fun s => ⟨rfl, _, _, rfl, fromBe16_extract (crc16 s)⟩⟩

/-! ## The fixed points of the byte `0x00` -/

theorem lowByte_crcStep (c : Word) (b : Byte) :
    (crcStep c b).extractLsb' 0 8 = (crcTable (c.extractLsb' 8 8 ^^^ b)).extractLsb' 0 8 := by
  have hzero : (c <<< 8).extractLsb' 0 8 = 0 := by
    refine BitVec.eq_of_getLsbD_eq fun i hi => ?_
    simp [hi]
  rw [crcStep_eq, BitVec.extractLsb'_xor, hzero]
  exact BitVec.zero_xor

theorem highByte_crcStep (c : Word) (b : Byte) :
    (crcStep c b).extractLsb' 8 8 =
      c.extractLsb' 0 8 ^^^ (crcTable (c.extractLsb' 8 8 ^^^ b)).extractLsb' 8 8 := by
  have hshift : (c <<< 8).extractLsb' 8 8 = c.extractLsb' 0 8 := by
    refine BitVec.eq_of_getLsbD_eq fun i hi => ?_
    have h16 : 8 + i < 16 := by omega
    rw [BitVec.getLsbD_extractLsb', BitVec.getLsbD_extractLsb', BitVec.getLsbD_shiftLeft]
    simp [hi, h16]
  rw [crcStep_eq, BitVec.extractLsb'_xor, hshift]

/-- The high byte of a fixed point solves an equation of one byte, and gives its low byte. -/
theorem crcStep_zero_eq_self_iff (c : Word) : crcStep c 0x00 = c ↔ c = 0x0000 ∨ c = 0xF01F := by
  constructor
  · intro h
    have hlow := lowByte_crcStep c 0
    have hhigh := highByte_crcStep c 0
    have hindex : c.extractLsb' 8 8 ^^^ 0 = c.extractLsb' 8 8 := BitVec.xor_zero
    rw [h, hindex] at hlow hhigh
    rw [hlow] at hhigh
    have hbyte : ∀ a : Byte, a = (crcTable a).extractLsb' 0 8 ^^^ (crcTable a).extractLsb' 8 8 →
        a = 0x00 ∨ a = 0xF0 := by decide +kernel
    rw [← fromBe16_extract c, hlow]
    rcases hbyte _ hhigh with ha | ha <;> rw [ha] <;> decide
  · rintro (rfl | rfl) <;> decide

/-! ## The words of the CRC commands -/

theorem mkWord_without_force (op : BitVec 4) (d : Byte) :
    mkWord op false d = (op.setWidth 16 <<< 12) ||| d.setWidth 16 := by
  simp [mkWord]

/-- Settles O21: the word is the encoding, and the fixed points are those of `crcStep_zero_eq_self_iff`. -/
theorem crcUpdateFoldsOneByte : Obligations.CrcUpdateFoldsOneByte := by
  refine ⟨fun b => ?_, exec_crcUpdate_eq, crcStep_zero_eq_self_iff, by decide, by decide⟩
  exact mkWord_without_force 0x5 b ▸ decode_encode (.crcUpdate b)

/-- Settles O19: CRC.INIT is idempotent and leaves the seed, which CRC.READ answers. -/
theorem crcInitSeedsCrc : Obligations.CrcInitSeedsCrc := by
  refine ⟨decode_encode .crcInit, exec_crcInit_eq, fun s t h => ⟨exec_crcInit_idempotent h, ?_⟩⟩
  cases h
  exact exec_pure rfl _

/-- Settles O20: the word is the encoding, and the reply is `pureReply`. -/
theorem crcTableReadsOneEntry : Obligations.CrcTableReadsOneEntry := by
  refine ⟨fun i => ?_, fun i s => exec_pure rfl s, by decide, by decide⟩
  exact mkWord_without_force 0x7 i ▸ decode_encode (.crcTable i)

/-- Settles O22: the reply is `pureReply`, and `checksum` is the fold from the seed as bytes. -/
theorem crcReadReturnsCrc : Obligations.CrcReadReturnsCrc :=
  ⟨decode_encode .crcRead, exec_pure rfl, exec_pure rfl State.reset, fun _ => rfl, by decide⟩

/-- Settles O23: the reply is `pureReply`. -/
theorem checksumLeavesCrcAlone : Obligations.ChecksumLeavesCrcAlone :=
  ⟨fun bs => decode_encode (.checksum bs), fun _ s => exec_pure rfl s, by decide, by decide +kernel⟩

/-! ## VERIFY -/

theorem exec_verify_of_error {buf : List Byte} {e : FramingError} (h : verifyBuffer buf = .error e)
    (s : State) : OnlyResponds (exec (.verify buf) s) s { err := e.errCode } := by
  rw [OnlyResponds, exec_pure rfl, pureReply, h]

theorem exec_verify_of_ok {buf : List Byte} {r : Tri} (h : verifyBuffer buf = .ok r) (s : State) :
    OnlyResponds (exec (.verify buf) s) s { tri := r } := by
  rw [OnlyResponds, exec_pure rfl, pureReply, h]

/-- A buffer that passes the length checks is judged by its status and its trailer. -/
theorem exec_verify_of_triOf {buf : List Byte} {r : Tri} (h9 : 9 ≤ buf.length)
    (hlen : (bufLength buf).toNat = buf.length - 9) (hr : triOf buf = r) (s : State) :
    OnlyResponds (exec (.verify buf) s) s { tri := r } :=
  exec_verify_of_ok (hr ▸ verifyBuffer_ok h9 hlen) s

/-- Settles O24: one law of `verifyBuffer` for each outcome. -/
theorem verifyChecksTheTrailer : Obligations.VerifyChecksTheTrailer :=
  ⟨fun buf => decode_encode (.verify buf), fun _ s =>
    ⟨fun hshort => exec_verify_of_error (verifyBuffer_short hshort) s,
      fun h9 hlen => exec_verify_of_error (verifyBuffer_mismatch h9 hlen) s,
      fun h9 hlen =>
        ⟨fun h7 => exec_verify_of_triOf h9 hlen (triOf_unknown h7) s,
          fun h7 hck => exec_verify_of_triOf h9 hlen (triOf_valid h7 hck) s,
          fun h7 hck => exec_verify_of_triOf h9 hlen (triOf_invalid h7 hck) s⟩⟩⟩

/-! ## Bytes that verify does not read -/

theorem slice_cons_cons (a b : Byte) (s : List Byte) (i j : Nat) :
    slice (a :: b :: s) (i + 2) (j + 2) = slice s i j := by
  simp [slice]

theorem bufTrailer_cons_cons (a b : Byte) {rest : List Byte} (h : 2 ≤ rest.length) :
    bufTrailer (a :: b :: rest) = bufTrailer rest := by
  have hfrom : (a :: b :: rest).length - 2 = rest.length - 2 + 2 := by
    rw [List.length_cons, List.length_cons]; omega
  rw [bufTrailer, hfrom]
  exact slice_cons_cons a b rest _ _

/-- The tri-state reads a buffer from offset 2 on (R85, R111). -/
theorem triOf_cons_cons_congr (a b a' b' : Byte) {rest : List Byte} (h : 2 ≤ rest.length) :
    triOf (a :: b :: rest) = triOf (a' :: b' :: rest) := by
  unfold triOf
  rw [bufTrailer_cons_cons a b h, bufTrailer_cons_cons a' b' h]
  rfl

theorem verifyBuffer_congr {buf buf' : List Byte} (hl : buf.length = buf'.length)
    (hb : bufLength buf = bufLength buf') (ht : 9 ≤ buf.length → triOf buf = triOf buf') :
    verifyBuffer buf = verifyBuffer buf' := by
  by_cases h9 : 9 ≤ buf.length
  · by_cases hlen : (bufLength buf).toNat = buf.length - 9
    · rw [verifyBuffer_ok h9 hlen, verifyBuffer_ok (hl ▸ h9) (hb ▸ hl ▸ hlen), ht h9]
    · rw [verifyBuffer_mismatch h9 hlen, verifyBuffer_mismatch (hl ▸ h9) (hb ▸ hl ▸ hlen)]
  · have hshort : buf.length < 9 := Nat.not_le.1 h9
    rw [verifyBuffer_short hshort, verifyBuffer_short (hl ▸ hshort)]

theorem verifyBuffer_cons_cons_congr (a b a' b' : Byte) (rest : List Byte) :
    verifyBuffer (a :: b :: rest) = verifyBuffer (a' :: b' :: rest) :=
  verifyBuffer_congr rfl rfl fun h9 => triOf_cons_cons_congr a b a' b' (by
    rw [List.length_cons, List.length_cons] at h9; omega)

/-- Settles O36: decode answers what verify answers, with fields from offset 4 on. -/
theorem firstTwoSyncBytesAreNotRead : Obligations.FirstTwoSyncBytesAreNotRead := by
  intro a b a' b' rest
  have hverify := verifyBuffer_cons_cons_congr a b a' b' rest
  refine ⟨?_, hverify⟩
  cases h : verifyBuffer (a :: b :: rest) with
  | error e => rw [decodeFrame_of_verify_error h, decodeFrame_of_verify_error (hverify ▸ h)]
  | ok r => rw [decodeFrame_of_verify_ok h, decodeFrame_of_verify_ok (hverify ▸ h)]; rfl

/-! ## One changed byte -/

theorem byteAt_set_self {s : List Byte} {k : Nat} (h : k < s.length) (b : Byte) :
    byteAt (s.set k b) k = b := by
  simp [byteAt, h]

theorem byteAt_set_ne {k i : Nat} (h : k ≠ i) (s : List Byte) (b : Byte) :
    byteAt (s.set k b) i = byteAt s i := by
  simp [byteAt, List.getElem?_set_ne h]

theorem byteAt_slice {i j k : Nat} (hi : i ≤ k) (hj : k < j) (s : List Byte) :
    byteAt (slice s i j) (k - i) = byteAt s k := by
  have hlt : k - i < j - i := by omega
  have hadd : i + (k - i) = k := by omega
  simp [byteAt, slice, hlt, hadd]

theorem slice_set_of_lt {i k : Nat} (h : k < i) (s : List Byte) (j : Nat) (b : Byte) :
    slice (s.set k b) i j = slice s i j := by
  rw [slice, List.drop_set_of_lt h, slice]

theorem slice_set_of_le {i k : Nat} (h : i ≤ k) (s : List Byte) (j : Nat) (b : Byte) :
    slice (s.set k b) i j = (slice s i j).set (k - i) b := by
  rw [slice, List.drop_set, if_neg (Nat.not_lt.2 h), List.take_set, slice]

theorem slice_set_of_ge {j k : Nat} (h : j ≤ k) (s : List Byte) (i : Nat) (b : Byte) :
    slice (s.set k b) i j = slice s i j := by
  by_cases hi : i ≤ k
  · rw [slice_set_of_le hi, List.set_eq_of_length_le]
    rw [length_slice]; omega
  · exact slice_set_of_lt (Nat.not_le.1 hi) s j b

/-- A slice changes when a byte in it does. -/
theorem slice_set_ne {s : List Byte} {i j k : Nat} {b : Byte} (hi : i ≤ k) (hj : k < j)
    (hk : k < s.length) (hb : byteAt s k ≠ b) : slice (s.set k b) i j ≠ slice s i j := fun h =>
  hb <| calc
    byteAt s k = byteAt (slice s i j) (k - i) := (byteAt_slice hi hj s).symm
    _ = byteAt (slice (s.set k b) i j) (k - i) := by rw [h]
    _ = byteAt (s.set k b) k := byteAt_slice hi hj _
    _ = b := byteAt_set_self hk b

/-- The checksum of a slice changes when a byte in it does. -/
theorem checksum_slice_set_ne {s : List Byte} {i j k : Nat} {b : Byte} (hi : i ≤ k) (hj : k < j)
    (hk : k < s.length) (hb : byteAt s k ≠ b) :
    checksum (slice (s.set k b) i j) ≠ checksum (slice s i j) := fun h => by
  have hne := slice_set_ne hi hj hk hb
  rw [slice_set_of_le hi] at h hne
  exact hne (set_eq_of_crcFold_set_eq (crc16_eq_of_checksum_eq h))

theorem triOf_eq_valid_iff {buf : List Byte} :
    triOf buf = .valid ↔
      (bufStatus buf).getLsbD 7 = true ∧ checksum (bufCovered buf) = bufTrailer buf := by
  unfold triOf
  cases (bufStatus buf).getLsbD 7 <;> simp

theorem verifyBuffer_eq_valid_iff {buf : List Byte} :
    verifyBuffer buf = .ok .valid ↔ 9 ≤ buf.length ∧ (bufLength buf).toNat = buf.length - 9 ∧
      (bufStatus buf).getLsbD 7 = true ∧ checksum (bufCovered buf) = bufTrailer buf := by
  constructor
  · intro h
    by_cases h9 : 9 ≤ buf.length
    · by_cases hlen : (bufLength buf).toNat = buf.length - 9
      · rw [verifyBuffer_ok h9 hlen] at h
        exact ⟨h9, hlen, triOf_eq_valid_iff.1 (Except.ok.inj h)⟩
      · rw [verifyBuffer_mismatch h9 hlen] at h; cases h
    · rw [verifyBuffer_short (Nat.not_le.1 h9)] at h; cases h
  · rintro ⟨h9, hlen, hvalid⟩
    rw [verifyBuffer_ok h9 hlen, triOf_eq_valid_iff.2 hvalid]

/-- A changed byte from offset 2 on is covered by the checksum, or it is of the trailer: just one of the
two sides changes. -/
theorem checksum_covered_set_ne {buf : List Byte} {k : Nat} {b : Byte}
    (hck : checksum (bufCovered buf) = bufTrailer buf) (h2 : 2 ≤ k) (hk : k < buf.length)
    (hb : byteAt buf k ≠ b) :
    checksum (bufCovered (buf.set k b)) ≠ bufTrailer (buf.set k b) := by
  unfold bufCovered bufTrailer at *
  rw [List.length_set]
  by_cases hc : k < buf.length - 2
  · rw [slice_set_of_lt hc, ← hck]
    exact checksum_slice_set_ne h2 hc hk hb
  · have hge : buf.length - 2 ≤ k := Nat.not_lt.1 hc
    rw [slice_set_of_ge hge, hck]
    exact (slice_set_ne hge hk hk hb).symm

/-- Settles O27: the length checks and status bit 7 are as before, and the checksum and the trailer no
longer agree. -/
theorem singleByteChangeIsDetected : Obligations.SingleByteChangeIsDetected := by
  intro buf k b hv h2 h6 hk hb h4
  obtain ⟨h9, hlen, hstatus, hck⟩ := verifyBuffer_eq_valid_iff.1 hv
  have hlength : (buf.set k b).length = buf.length := List.length_set
  have hlen' : (bufLength (buf.set k b)).toNat = (buf.set k b).length - 9 := by
    rw [bufLength, byteAt_set_ne h6, hlength]; exact hlen
  have hstatus' : (bufStatus (buf.set k b)).getLsbD 7 = true := by
    by_cases hk4 : k = 4
    · rw [bufStatus, ← hk4, byteAt_set_self hk]; exact h4 hk4
    · rw [bufStatus, byteAt_set_ne hk4]; exact hstatus
  rw [verifyBuffer_ok (hlength ▸ h9) hlen', triOf_invalid hstatus' (checksum_covered_set_ne hck h2 hk hb)]

end Sys2Proof.Machine
end

section

namespace Sys2Proof.Machine

/-! ## The status byte (R130, R132) -/

@[simp] theorem orIf_true (v s : Byte) : orIf true v s = s ||| v := rfl

@[simp] theorem orIf_false (v s : Byte) : orIf false v s = s := rfl

theorem getLsbD_orIf (c : Bool) (v s : Byte) (i : Nat) :
    (orIf c v s).getLsbD i = (s.getLsbD i || (c && v.getLsbD i)) := by
  cases c <;> simp

@[simp] theorem overwriteIf_true (s : Byte) : overwriteIf true s = 0x04 := rfl

@[simp] theorem overwriteIf_false (s : Byte) : overwriteIf false s = s := rfl

theorem packStatus_of_all {p : Config.Params} {f : Byte} (hall : p.cnvOverwrite = .all)
    (h2 : f.getLsbD 2 = true) (force : Bool) : packStatus p f force = 0x04 := by
  simp only [packStatus, hall, h2, decide_true, Bool.and_true, overwriteIf_true]

/-- The bits set before the replacement are lost; bits 1 and 0 come after it. -/
theorem packStatus_of_inOrder {p : Config.Params} {f : Byte} (hio : p.cnvOverwrite = .inOrder)
    (h2 : f.getLsbD 2 = true) (force : Bool) : packStatus p f force = 0x04 ||| (f &&& 0x03) := by
  have hpack : packStatus p f force = orIf (f.getLsbD 0) 0x01 (orIf (f.getLsbD 1) 0x02 0x04) := by
    simp [-BitVec.getLsbD_eq_getElem, packStatus, hio, h2]
  rw [hpack]
  apply BitVec.eq_of_getLsbD_eq
  intro i hi
  interval_cases i <;> simp [-BitVec.getLsbD_eq_getElem, getLsbD_orIf]

/-- Without the replacement every flag is OR-ed in at its own bit, bit 7 with the force bit. -/
theorem packStatus_of_clear (p : Config.Params) {f : Byte} (h2 : f.getLsbD 2 = false) (force : Bool) :
    packStatus p f force = (f &&& 0xDB) ||| ((BitVec.ofBool force).setWidth 8 <<< 7) := by
  apply BitVec.eq_of_getLsbD_eq
  intro i hi
  interval_cases i <;> simp [-BitVec.getLsbD_eq_getElem, packStatus, getLsbD_orIf, h2]

/-- The three closed forms are all the packed bytes there are. -/
theorem packStatus_cases (p : Config.Params) (f : Byte) (force : Bool) :
    (f.getLsbD 2 = true ∧ packStatus p f force = 0x04) ∨
      (f.getLsbD 2 = true ∧ packStatus p f force = 0x04 ||| (f &&& 0x03)) ∨
      (f.getLsbD 2 = false ∧
        packStatus p f force = (f &&& 0xDB) ||| ((BitVec.ofBool force).setWidth 8 <<< 7)) := by
  cases h2 : f.getLsbD 2 with
  | false => exact .inr (.inr ⟨rfl, packStatus_of_clear p h2 force⟩)
  | true =>
    cases hp : p.cnvOverwrite with
    | all => exact .inl ⟨rfl, packStatus_of_all hp h2 force⟩
    | inOrder => exact .inr (.inl ⟨rfl, packStatus_of_inOrder hp h2 force⟩)

theorem getLsbD_packStatus_five (p : Config.Params) (f : Byte) (force : Bool) :
    (packStatus p f force).getLsbD 5 = false := by
  obtain ⟨-, h⟩ | ⟨-, h⟩ | ⟨-, h⟩ := packStatus_cases p f force <;> rw [h] <;> simp

/-- Bit 7 is packed when it is asked for, unless the replacement drops it. -/
theorem getLsbD_packStatus_seven (p : Config.Params) (f : Byte) (force : Bool) :
    (packStatus p f force).getLsbD 7 = (!f.getLsbD 2 && (f.getLsbD 7 || force)) := by
  obtain ⟨h2, h⟩ | ⟨h2, h⟩ | ⟨h2, h⟩ := packStatus_cases p f force <;> rw [h, h2] <;> simp

/-- Each line of R130 reads a bit of `f` that is not bit 5. -/
theorem packStatus_xor_bit5 (p : Config.Params) (f : Byte) (force : Bool) :
    packStatus p (f ^^^ 0x20) force = packStatus p f force := by
  simp [packStatus]

/-- Settles O28: the three closed forms, from which bit 5 of the result is clear. -/
theorem packStatusClosedForm : Obligations.PackStatusClosedForm := fun p f force =>
  ⟨fun hall h2 => packStatus_of_all hall h2 force, fun hio h2 => packStatus_of_inOrder hio h2 force,
    fun h2 => packStatus_of_clear p h2 force, getLsbD_packStatus_five p f force,
    packStatus_xor_bit5 p f force⟩

/-- The flags byte has the flags at their own bits and drops bit 5 (R84, R132). -/
theorem Flags.toByte_ofByte : ∀ b : Byte, (Flags.ofByte b).toByte = b &&& 0xDF := by
  decide +kernel

theorem unpackStatus_of_bit5_clear {b : Byte} (h5 : b.getLsbD 5 = false) : unpackStatus b = b := by
  unfold unpackStatus
  apply BitVec.eq_of_getLsbD_eq
  intro i hi
  interval_cases i <;> simp [-BitVec.getLsbD_eq_getElem, h5]

theorem unpackStatus_unpackStatus (b : Byte) : unpackStatus (unpackStatus b) = unpackStatus b :=
  unpackStatus_of_bit5_clear (by simp [unpackStatus])

/-! ## The words of the codec's commands -/

/-- Settles O29: the word is the encoding, the reply is `pureReply`, and the bytes are the closed forms. -/
theorem packStatusRespondsTheByte : Obligations.PackStatusRespondsTheByte := by
  refine ⟨fun force f => decode_encode (.packStatus force f), fun _ _ s => exec_pure rfl s,
    fun _ _ force hall h2 => packStatus_of_all hall h2 force, fun p =>
      ⟨packStatus_of_clear p rfl false, packStatus_of_clear p rfl true, packStatus_of_clear p rfl false, ?_⟩⟩
  cases hp : p.cnvOverwrite with
  | all => exact packStatus_of_all hp rfl false
  | inOrder => exact packStatus_of_inOrder hp rfl false

/-- Settles O30: the word is the encoding, and the reply is `pureReply`. -/
theorem unpackStatusRespondsTheFlags : Obligations.UnpackStatusRespondsTheFlags :=
  ⟨fun b => mkWord_without_force 0xB b ▸ decode_encode (.unpackStatus b), fun _ s => exec_pure rfl s,
    fun b => ⟨rfl, Flags.toByte_ofByte b⟩⟩

/-! ## Encode (R135, R137) -/

theorem length_encodeFrame (p : Config.Params) {fr : FrameOperand} (force : Bool) (hwf : fr.wf = true) :
    (encodeFrame p fr force).length = 9 + fr.len.toNat := by
  rw [encodeFrame, List.length_append, length_frameBody p force hwf, length_frameTrailer]
  omega

/-- Settles O32: body and trailer, with a length byte of at most 255. -/
theorem encodedLength : Obligations.EncodedLength := fun p fr force hwf => by
  have hlen : fr.len.toNat < 256 := fr.len.isLt
  rw [length_encodeFrame p force hwf]
  omega

/-- From its third byte to its end, the body is what the checksum covers (R85). -/
theorem slice_frameBody (p : Config.Params) {fr : FrameOperand} (force : Bool) (hwf : fr.wf = true) :
    slice (frameBody p fr force) 2 (7 + fr.len.toNat) =
      [0x42, 0x42, packStatus p fr.flags force, fr.command, fr.len] ++ fr.payload := by
  have hlength := length_frameBody p force hwf
  rw [slice, List.take_of_length_le (by rw [List.length_drop, hlength])]
  rfl

/-- Settles O31: the words are the encodings, the reply is `pureReply`, and the trailer's checksum covers
the body from its third byte. -/
theorem encodeRespondsTheFrame : Obligations.EncodeRespondsTheFrame := by
  refine ⟨fun fr => decode_encode (.encode false fr), fun fr => decode_encode (.encode true fr),
    fun force fr s hwf => ?_, by decide +kernel⟩
  rw [OnlyResponds, exec_pure rfl, pureReply, encodeFrame, frameTrailer, slice_frameBody _ _ hwf]
  rfl

/-! ## Decode (R140, R143) -/

theorem decodeFrame_ok {buf : List Byte} (h9 : 9 ≤ buf.length)
    (hlen : (bufLength buf).toNat = buf.length - 9) :
    decodeFrame buf = .ok (frameOf buf (triOf buf)) :=
  decodeFrame_of_verify_ok (verifyBuffer_ok h9 hlen)

/-- The flags byte of a decoded Frame is the status byte without bit 5. -/
theorem toByte_flags_frameOf (buf : List Byte) (r : Tri) :
    (frameOf buf r).flags.toByte = unpackStatus (bufStatus buf) :=
  (Flags.toByte_ofByte _).trans (unpackStatus_unpackStatus _)

theorem exec_decode_of_error {buf : List Byte} {e : FramingError} (h : decodeFrame buf = .error e)
    (s : State) : OnlyResponds (exec (.decode buf) s) s { err := e.errCode } := by
  rw [OnlyResponds, exec_pure rfl, pureReply, h]

theorem exec_decode_of_ok {buf : List Byte} {d : Frame} (h : decodeFrame buf = .ok d) (s : State) :
    OnlyResponds (exec (.decode buf) s) s { frameValid := true, frame := d } := by
  rw [OnlyResponds, exec_pure rfl, pureReply, h]

/-- Settles O33: one law of `verifyBuffer` for each outcome, and decode answers what it answers. -/
theorem decodeRespondsTheFrame : Obligations.DecodeRespondsTheFrame := by
  refine ⟨fun buf => decode_encode (.decode buf), fun buf s => ⟨fun hshort => ?_, fun h9 hlen => ?_,
    fun h9 hlen => ⟨frameOf buf (triOf buf), exec_decode_of_ok (decodeFrame_ok h9 hlen) s, rfl, rfl, rfl,
      toByte_flags_frameOf buf _, verifyBuffer_ok h9 hlen⟩⟩⟩
  · exact exec_decode_of_error (decodeFrame_of_verify_error (verifyBuffer_short hshort)) s
  · exact exec_decode_of_error (decodeFrame_of_verify_error (verifyBuffer_mismatch h9 hlen)) s

/-! ## The round trip (R144, R145) -/

theorem bufCovered_append {t : List Byte} (ht : t.length = 2) (body : List Byte) :
    bufCovered (body ++ t) = slice body 2 body.length := by
  have hend : (body ++ t).length - 2 = body.length := by rw [List.length_append, ht]; omega
  rw [bufCovered, hend, slice, slice, ← List.drop_take, ← List.drop_take, List.take_left, List.take_length]

theorem bufTrailer_append {t : List Byte} (ht : t.length = 2) (body : List Byte) :
    bufTrailer (body ++ t) = t := by
  have hend : (body ++ t).length - 2 = body.length := by rw [List.length_append, ht]; omega
  rw [bufTrailer, hend, slice, List.drop_left, List.take_of_length_le]
  rw [List.length_append]; omega

/-- A packed status byte with bit 7 set goes with a checksum, under either source (R136). -/
theorem cksumEnabled_of_bit7 {p : Config.Params} {f : Byte} {force : Bool}
    (h7 : (packStatus p f force).getLsbD 7 = true) :
    cksumEnabled p f force (packStatus p f force) = true := by
  unfold cksumEnabled
  cases p.cksumSource with
  | statusBit => exact h7
  | flag =>
    rw [getLsbD_packStatus_seven] at h7
    exact (Bool.and_eq_true_iff.1 h7).2

/-- An encoded frame is judged by bit 7 of its status byte: where that is set, the trailer is the checksum
that verify computes. -/
theorem triOf_encodeFrame (p : Config.Params) {fr : FrameOperand} (force : Bool) (hwf : fr.wf = true) :
    triOf (encodeFrame p fr force) =
      if (packStatus p fr.flags force).getLsbD 7 then .valid else .unknown := by
  obtain ⟨hstatus, -⟩ := fields_encodeFrame p force hwf
  cases h7 : (packStatus p fr.flags force).getLsbD 7 with
  | false => exact triOf_unknown (hstatus ▸ h7)
  | true =>
    refine triOf_valid (hstatus ▸ h7) ?_
    have htrailer := length_frameTrailer p fr force
    rw [encodeFrame, bufCovered_append htrailer, bufTrailer_append htrailer, frameTrailer,
      if_pos (cksumEnabled_of_bit7 h7), length_frameBody p force hwf]

/-- Decoding an encoded frame gives back the command, the length and the payload, and for the flags byte
the packed status byte. -/
theorem exists_decodeFrame_encodeFrame (p : Config.Params) {fr : FrameOperand} (force : Bool)
    (hwf : fr.wf = true) :
    ∃ d, decodeFrame (encodeFrame p fr force) = .ok d ∧ d.command = fr.command ∧ d.len = fr.len ∧
      d.payload = fr.payload ∧ d.flags.toByte = packStatus p fr.flags force ∧
      d.parsedChecksumValid =
        if (packStatus p fr.flags force).getLsbD 7 then .valid else .unknown := by
  obtain ⟨hstatus, hcommand, hlen, hpayload⟩ := fields_encodeFrame p force hwf
  have hlength := length_encodeFrame p force hwf
  refine ⟨_, decodeFrame_ok (by omega) (by rw [hlen]; omega), hcommand, hlen, hpayload, ?_,
    triOf_encodeFrame p force hwf⟩
  rw [toByte_flags_frameOf, hstatus, unpackStatus_of_bit5_clear (getLsbD_packStatus_five ..)]

/-- With bits 2 and 5 clear, packing only adds the force bit. -/
theorem packStatus_of_bits_clear (p : Config.Params) {f : Byte} (h2 : f.getLsbD 2 = false)
    (h5 : f.getLsbD 5 = false) (force : Bool) : packStatus p f force = orIf force 0x80 f := by
  apply BitVec.eq_of_getLsbD_eq
  intro i hi
  interval_cases i <;> simp [-BitVec.getLsbD_eq_getElem, packStatus, getLsbD_orIf, h2, h5]

/-- Settles O34: the packed status byte is the flags byte with the force bit. -/
theorem decodeOfEncodedFrame : Obligations.DecodeOfEncodedFrame := by
  intro p fr hwf h2 h5
  have hdecode (force : Bool) := exists_decodeFrame_encodeFrame p force hwf
  simp only [packStatus_of_bits_clear p h2 h5] at hdecode
  have h7 : (orIf true 0x80 fr.flags).getLsbD 7 = true := by simp
  obtain ⟨d, hd, hcommand, hlen, hpayload, hflags, htri⟩ := hdecode true
  exact ⟨hdecode false, d, hd, hcommand, hlen, hpayload, hflags, htri.trans (if_pos h7)⟩

/-- Settles O35: under `ALL` the packed status byte is `0x04`, whose bit 7 is clear. -/
theorem overwriteLosesFlags : Obligations.OverwriteLosesFlags := by
  intro p fr force hall hwf h2
  obtain ⟨d, hd, hcommand, -, hpayload, hflags, htri⟩ := exists_decodeFrame_encodeFrame p force hwf
  rw [packStatus_of_all hall h2] at hflags htri
  exact ⟨d, hd, hflags, htri, hcommand, hpayload⟩

end Sys2Proof.Machine
end

section

namespace Sys2Proof.Machine

/-! ## The bytes of a frame, fed from rest (R174 to R185) -/

/-- A buffer that the automaton takes whole: the preamble, a status byte that is no illegal request, and as
many bytes as the length byte says (R174 to R184). -/
structure StreamFrame (buf : List Byte) : Prop where
  sync : buf.take 4 = Config.sync
  status : illegalRequest (bufStatus buf) = false
  length : buf.length = 9 + (bufLength buf).toNat

theorem byteAt_append_cons (pre : List Byte) (b : Byte) (post : List Byte) :
    byteAt (pre ++ b :: post) pre.length = b := by
  simp [byteAt]

/-- The length byte, once held, is that of every buffer the held bytes begin. -/
theorem bufLength_accBuffer_append {s : State} (h : 6 < s.sdCnt.toNat) (post : List Byte) :
    bufLength (accBuffer s ++ post) = s.sdAcc[6] := by
  rw [← byteAt_accBuffer h (by omega), bufLength, byteAt, byteAt,
    List.getD_append _ _ _ _ (by rw [length_accBuffer]; omega)]

/-- R31 reads state 9 off the count. -/
theorem SyncTable.sdState_eq_nine_iff {s : State} (h : SyncTable s) :
    s.sdState = 9 ↔ s.sdCnt.toNat = 8 + accLength s := by
  cases h.row with
  | rest hs hc => simp [hs, hc]; omega
  | sync h1 h4 hc => exact iff_of_false (by rintro h9; simp [h9] at h4) (by omega)
  | command hs hc => simp [hs, hc]; omega
  | length hs hc => simp [hs, hc]; omega
  | payload hs h1 hl hc => simp [hs]; omega
  | cksum1 hs hc => simp [hs, hc]
  | cksum2 hs hc => simp [hs, hc]

theorem sdCnt_lt_of_inv {s : State} (hi : Inv s) : s.sdCnt.toNat < 264 := by
  obtain ⟨htab, -, -⟩ := hi
  exact Nat.lt_succ_of_le htab.sdCnt_le

/-- State 9 waits for the last byte of the buffer: all but one are held. -/
theorem StreamFrame.sdState_eq_nine_iff {s : State} {b : Byte} {post : List Byte}
    (hf : StreamFrame (accBuffer s ++ b :: post)) (hi : Inv s) : s.sdState = 9 ↔ post = [] := by
  have hlen := hf.length
  rw [List.length_append, length_accBuffer_of_le (sdCnt_lt_of_inv hi).le, List.length_cons] at hlen
  obtain ⟨htab, -, -⟩ := hi
  rw [htab.sdState_eq_nine_iff, accLength, ← List.length_eq_zero_iff]
  by_cases h6 : 6 < s.sdCnt.toNat
  · rw [bufLength_accBuffer_append h6] at hlen
    omega
  · omega

/-- The next byte of the buffer is one that the state's arm appends. -/
theorem StreamFrame.appends {s : State} {b : Byte} {post : List Byte}
    (hf : StreamFrame (accBuffer s ++ b :: post)) (hi : Inv s) : Appends b s := by
  have hheld := length_accBuffer_of_le (sdCnt_lt_of_inv hi).le
  obtain ⟨htab, -, -⟩ := hi
  by_cases h3 : s.sdState.toNat ≤ 3
  · obtain ⟨hcnt, -⟩ := htab.early (by omega)
    refine .inl ?_
    rw [← hf.sync, List.getElem?_take_of_lt (by omega), ← hcnt, ← hheld]
    simp
  · by_cases hs : s.sdState = 4
    · obtain ⟨hcnt, -⟩ := htab.early (by simp [hs])
      have hstatus : bufStatus (accBuffer s ++ b :: post) = b := by
        have hb := byteAt_append_cons (accBuffer s) b post
        rwa [hheld, hcnt, hs] at hb
      exact .inr (.inl ⟨hs, hstatus ▸ hf.status⟩)
    · obtain ⟨-, -, -, -, -, -, -, hle⟩ := htab
      exact .inr (.inr ⟨by bv_omega, hle⟩)

/-- Before state 9, an arm that appends answers with the empty response. -/
theorem Appends.exists_processStep {b : Byte} {s : State} (h : Appends b s) (h9 : s.sdState ≠ 9)
    (hc : s.sdCnt.toNat < 264) :
    ∃ t, ProcessStep b s t ∧ t.resp = some {} ∧ accBuffer t = accBuffer s ++ [b] := by
  have hacc := accBuffer_append hc b
  obtain hb | ⟨hs, hb⟩ | ⟨h5, hle⟩ := h
  · have h3 : s.sdState.toNat < 4 := (List.getElem?_eq_some_iff.1 hb).1
    by_cases h1 : 1 ≤ s.sdState.toNat
    · exact ⟨_, .syncNext h1 (Nat.le_of_lt_succ h3) hb hc, rfl, hacc⟩
    · have hs : s.sdState = 0 := by bv_omega
      obtain rfl : 0x55 = b := by simpa [hs, Config.sync] using hb
      exact ⟨_, .syncFirst hs rfl hc, rfl, hacc⟩
  · exact ⟨_, .statusAccept hs hb hc, rfl, hacc⟩
  · obtain hs | hs | hs | hs : s.sdState = 5 ∨ s.sdState = 6 ∨ s.sdState = 7 ∨ s.sdState = 8 := by
      bv_omega
    · exact ⟨_, .command hs hc, rfl, hacc⟩
    · exact ⟨_, .length hs hc, rfl, hacc⟩
    · exact ⟨_, .payload hs hc, rfl, hacc⟩
    · exact ⟨_, .cksum1 hs hc, rfl, hacc⟩

/-- A step takes the first of the bytes fed. -/
theorem step_feedInputs {s t : State} {b : Byte} {bs : List Byte} (hin : s.inputs = feedInputs (b :: bs))
    (h : ProcessStep b { s with inputs := feedInputs bs } t) : step s = .next t :=
  (step_ofInstr hin rfl).trans h.exec_eq

/-- From a state that holds the beginning of a frame, feeding the rest gives empty responses, then the
decoded Frame, and leaves the unit at rest. Under the invariant the held bytes fix the arm that runs. -/
theorem collect_feedInputs_of_streamFrame {b : Byte} {post : List Byte} {s : State} {d : Frame}
    (hi : Inv s) (hf : StreamFrame (accBuffer s ++ b :: post))
    (hd : decodeFrame (accBuffer s ++ b :: post) = .ok d) (hin : s.inputs = feedInputs (b :: post)) :
    ∃ t, collect (post.length + 1) s =
        some (List.replicate post.length ({} : Response) ++ [{ frameValid := true, frame := d }], t) ∧
      AtRest t ∧ t.crc = s.crc ∧ t.inputs = [] := by
  induction post generalizing b s with
  | nil =>
    have h9 := (hf.sdState_eq_nine_iff hi).2 rfl
    have hlast := ProcessStep.cksum2 (s := { s with inputs := [] }) h9 (sdCnt_lt_of_inv hi) d hd
    exact ⟨_, collect_succ_iff.2 ⟨_, [], step_feedInputs hin hlast, rfl, rfl⟩, ⟨rfl, rfl, rfl, rfl⟩, rfl, rfl⟩
  | cons b' post ih =>
    have h9 : s.sdState ≠ 9 := fun h9 => List.cons_ne_nil _ _ ((hf.sdState_eq_nine_iff hi).1 h9)
    obtain ⟨t, ht, hresp, hacc⟩ := (hf.appends hi).exists_processStep
      (s := { s with inputs := feedInputs (b' :: post) }) h9 (sdCnt_lt_of_inv hi)
    obtain ⟨hcrc, -, hin'⟩ := ht.frame
    have hbuf : accBuffer t ++ b' :: post = accBuffer s ++ b :: b' :: post := by
      rw [hacc]; exact List.append_assoc ..
    rw [← hbuf] at hf hd
    obtain ⟨u, hrun, hrest, hucrc, huin⟩ := ih (ht.inv hi) hf hd hin'
    refine ⟨u, collect_succ_iff.2 ⟨t, _, step_feedInputs hin ht, hrun, ?_⟩, hrest, hucrc.trans hcrc, huin⟩
    rw [hresp]
    rfl

/-! ## Which status bytes are dropped (R171, R179) -/

/-- Settles O37: the masked byte is 0 exactly when none of bits 4 to 0 is set. -/
theorem illegalRequestBits : Obligations.IllegalRequestBits := by
  intro b
  have hlow : ∀ b : Byte, b &&& 0x1F ≠ 0 ↔
      (b.getLsbD 4 = true ∨ b.getLsbD 3 = true ∨ b.getLsbD 2 = true ∨ b.getLsbD 1 = true ∨
        b.getLsbD 0 = true) := by decide +kernel
  rw [illegalRequest, Bool.and_eq_true, decide_eq_true_iff, hlow, Bool.not_eq_true', and_comm]

/-- With bit 2 clear the packed status byte is judged as the flags byte is: the force bit takes no part. -/
theorem illegalRequest_packStatus (p : Config.Params) {f : Byte} (h2 : f.getLsbD 2 = false)
    (force : Bool) :
    illegalRequest (packStatus p f force) = (decide (f &&& 0x1B ≠ 0) && !f.getLsbD 6) := by
  have hlow : packStatus p f force &&& 0x1F = f &&& 0x1B := by
    rw [packStatus_of_clear p h2]
    apply BitVec.eq_of_getLsbD_eq
    intro i hi
    interval_cases i <;> simp [-BitVec.getLsbD_eq_getElem]
  have h6 : (packStatus p f force).getLsbD 6 = f.getLsbD 6 := by
    rw [packStatus_of_clear p h2]
    simp [-BitVec.getLsbD_eq_getElem]
  rw [illegalRequest, hlow, h6]

/-- An encoded frame is one the automaton takes whole when `checksum_not_valid` is clear and it is a reply
or has no error flag (90_conflicts.md C1). -/
theorem streamFrame_encodeFrame (p : Config.Params) {fr : FrameOperand} (force : Bool)
    (hwf : fr.wf = true) (h2 : fr.flags.getLsbD 2 = false)
    (herr : fr.flags.getLsbD 6 = true ∨ fr.flags &&& 0x1B = 0) :
    StreamFrame (encodeFrame p fr force) := by
  obtain ⟨hstatus, -, hlen, -⟩ := fields_encodeFrame p force hwf
  refine ⟨rfl, ?_, by rw [hlen, length_encodeFrame p force hwf]⟩
  rw [hstatus, illegalRequest_packStatus p h2]
  obtain h6 | hlow := herr
  · rw [h6, Bool.not_true, Bool.and_false]
  · rw [hlow]; rfl

/-- `packStatus_of_clear` in the terms of unpacking: bit 5 is dropped and the force bit added. -/
theorem packStatus_eq_unpackStatus_or (p : Config.Params) {f : Byte} (h2 : f.getLsbD 2 = false)
    (force : Bool) : packStatus p f force = (f &&& 0xDF) ||| (if force then 0x80 else 0x00) := by
  rw [packStatus_of_clear p h2]
  apply BitVec.eq_of_getLsbD_eq
  intro i hi
  cases force <;> interval_cases i <;> simp [-BitVec.getLsbD_eq_getElem, h2]

/-- Settles O52: an encoded frame is taken whole, and its decode gives the Frame that was encoded. -/
theorem encodedFrameIsRecognised : Obligations.EncodedFrameIsRecognised := by
  intro s p fr force hrest hwf h2 herr hin
  obtain ⟨d, hd, hcommand, hlen, hpayload, hflags, htri⟩ := exists_decodeFrame_encodeFrame p force hwf
  have hf := streamFrame_encodeFrame p force hwf h2 herr
  have hlength := length_encodeFrame p force hwf
  obtain ⟨b, post, hbuf⟩ :=
    List.exists_cons_of_length_pos (l := encodeFrame p fr force) (by omega)
  have ⟨_, hcnt, _⟩ := hrest
  have hempty : accBuffer s = [] := by simp [accBuffer, hcnt]
  have hpost : post.length = 8 + fr.len.toNat := by rw [hbuf, List.length_cons] at hlength; omega
  rw [hbuf] at hf hd hin
  obtain ⟨t, hrun, ht⟩ := collect_feedInputs_of_streamFrame (inv_of_atRest hrest)
    (by rwa [hempty]) (by rwa [hempty]) hin
  rw [hpost, show 8 + fr.len.toNat + 1 = 9 + fr.len.toNat by omega] at hrun
  rw [packStatus_eq_unpackStatus_or p h2] at hflags
  rw [getLsbD_packStatus_seven, h2] at htri
  exact ⟨t, d, hrun, hcommand, hlen, hpayload, hflags, htri, ht⟩

end Sys2Proof.Machine
end

section

namespace Sys2Proof.Machine

/-! ## The arms of SD.PROCESS (R174 to R186) -/

/-- States 1 to 3 on the preamble byte they wait for (R175 to R177). -/
theorem exec_sdProcess_of_sync {s : State} {v : BitVec 4} {b : Byte} (hs : s.sdState = v)
    (h1 : 1 ≤ v.toNat) (h3 : v.toNat ≤ 3) (hb : Config.sync[v.toNat]? = some b)
    (hc : s.sdCnt.toNat < 264) :
    exec (.sdProcess b) s = .next { append b s with sdState := v + 1, resp := some {} } := by
  subst hs
  exact exec_sdProcess_iff.2 (.syncNext h1 h3 hb hc)

/-- States 1 to 3 on any other byte (R175 to R177). -/
theorem exec_sdProcess_of_mismatch {s : State} {v : BitVec 4} {e b : Byte} (hs : s.sdState = v)
    (h1 : 1 ≤ v.toNat) (h3 : v.toNat ≤ 3) (he : Config.sync[v.toNat]? = some e) (hb : b ≠ e) :
    exec (.sdProcess b) s = .next (resetWith s { diag := .syncMismatch, diagState := v }) := by
  subst hs
  exact exec_sdProcess_iff.2 (.syncMismatch h1 h3 fun h => hb (Option.some.inj (h.symm.trans he)))

/-- Settles O38: the arm of state 0 and the shared arm of states 1 to 3. -/
theorem syncByteArms : Obligations.SyncByteArms := fun s b =>
  ⟨fun hs hb hc => exec_sdProcess_iff.2 (.syncFirst hs hb hc),
    fun hs hb => exec_sdProcess_iff.2 (.syncDiscard hs hb),
    fun hs hb hc => exec_sdProcess_of_sync hs (by decide) (by decide) (hb ▸ rfl) hc,
    fun hs hb => exec_sdProcess_of_mismatch hs (by decide) (by decide) rfl hb,
    fun hs hb hc => exec_sdProcess_of_sync hs (by decide) (by decide) (hb ▸ rfl) hc,
    fun hs hb => exec_sdProcess_of_mismatch hs (by decide) (by decide) rfl hb,
    fun hs hb hc => exec_sdProcess_of_sync hs (by decide) (by decide) (hb ▸ rfl) hc,
    fun hs hb => exec_sdProcess_of_mismatch hs (by decide) (by decide) rfl hb⟩

/-- Settles O39: one arm of `ProcessStep` for each value of the test. -/
theorem statusByteArm : Obligations.StatusByteArm := fun _ _ hs =>
  ⟨fun hb hc => exec_sdProcess_iff.2 (.statusAccept hs hb hc),
    fun hb => exec_sdProcess_iff.2 (.statusDrop hs hb)⟩

/-- Settles O40: with `SD_REM` at least 1 the decrement of state 7 does not wrap. -/
theorem frameByteArms : Obligations.FrameByteArms := by
  refine ⟨fun s b hs hc => exec_sdProcess_iff.2 (.command hs hc),
    fun s b hs hc => exec_sdProcess_iff.2 (.length hs hc), fun s b hs hc h1 => ?_,
    fun s b hs hc => exec_sdProcess_iff.2 (.cksum1 hs hc)⟩
  have hrem : (s.sdRem - 1).toNat = s.sdRem.toNat - 1 := by bv_omega
  exact ⟨_, exec_sdProcess_iff.2 (.payload hs hc), hrem, rfl⟩

/-- Settles O15: the length byte lies below the count, so the append leaves it alone. -/
theorem accumulatedFrameAlwaysDecodes : Obligations.AccumulatedFrameAlwaysDecodes := by
  intro s b hi hs
  have hc := sdCnt_lt_of_inv hi
  obtain ⟨htab, -, -⟩ := hi
  have hcnt := htab.sdState_eq_nine_iff.1 hs
  have hlen : accLength (append b s) = accLength s := accLength_append_of_ne (by omega) b
  refine ⟨?_, by rw [accBuffer_append hc]; exact decodeFrame_accBuffer_ok hs htab b⟩
  calc (append b s).sdCnt.toNat
    _ = 9 + accLength s := by rw [append_sdCnt_toNat hc]; omega
    _ = 9 + accLength (append b s) := by rw [hlen]

/-- Settles O42: under the invariant the completed buffer decodes, so the arm of state 9 runs. -/
theorem frameCompletesInStateNine : Obligations.FrameCompletesInStateNine := by
  intro s b hi hs
  have hc := sdCnt_lt_of_inv hi
  obtain ⟨htab, -, -⟩ := hi
  obtain ⟨fr, hd⟩ := decodeFrame_accBuffer_ok hs htab b
  exact ⟨fr, hd, exec_sdProcess_iff.2 (.cksum2 hs hc fr hd)⟩

/-- No arm of SD.PROCESS leads to a state value above 9, whatever state it runs in. -/
theorem ProcessStep.sdState_le {b : Byte} {s t : State} (h : ProcessStep b s t) : t.sdState.toNat ≤ 9 := by
  cases h with
  | syncDiscard hs => simp [hs]
  | syncNext h1 h3 hb hc =>
    show (s.sdState + 1).toNat ≤ 9
    bv_omega
  | length hs hc =>
    show (if b = 0 then 8 else 7 : BitVec 4).toNat ≤ 9
    split <;> decide
  | payload hs hc =>
    show (if s.sdRem - 1 = 0 then 8 else 7 : BitVec 4).toNat ≤ 9
    split <;> decide
  | _ => simp

/-- Settles O43: the last arm, and the state values that the commands leave. -/
theorem unexpectedStateResets : Obligations.UnexpectedStateResets := by
  refine ⟨fun s b hs => exec_sdProcess_iff.2 (.unexpected hs), fun i s t hle h => ?_⟩
  obtain ⟨b, -, hp⟩ | ⟨-, rfl⟩ | ⟨c, r, -, rfl⟩ := exec_next_cases h
  · exact hp.sdState_le
  · exact Nat.zero_le 9
  · exact hle

/-! ## The responses of SD.PROCESS (R185, R192) -/

/-- A byte other than the preamble byte that states 1 to 3 wait for. -/
abbrev SyncMismatch (b : Byte) (s : State) : Prop :=
  1 ≤ s.sdState.toNat ∧ s.sdState.toNat ≤ 3 ∧ Config.sync[s.sdState.toNat]? ≠ some b

/-- The four responses that SD.PROCESS gives, each with the states it gives it in. -/
inductive ProcessReply (b : Byte) (s : State) : Response → Prop where
  | quiet (hs : s.sdState.toNat ≤ 8) (hb : ¬ SyncMismatch b s) : ProcessReply b s {}
  | frame (hs : s.sdState = 9) (fr : Frame) : ProcessReply b s { frameValid := true, frame := fr }
  | mismatch (hb : SyncMismatch b s) :
      ProcessReply b s { diag := .syncMismatch, diagState := s.sdState }
  | unexpected (hs : 10 ≤ s.sdState.toNat) :
      ProcessReply b s { diag := .unexpectedState, diagState := s.sdState }

theorem not_syncMismatch_of_lt {b : Byte} {s : State} (hs : s.sdState.toNat < 1 ∨ 3 < s.sdState.toNat) :
    ¬ SyncMismatch b s := by
  rintro ⟨h1, h3, -⟩
  omega

/-- Every arm answers with one of the four. -/
theorem ProcessStep.reply {b : Byte} {s t : State} (h : ProcessStep b s t) :
    ∃ r, t.resp = some r ∧ ProcessReply b s r := by
  have hquiet (hs : s.sdState.toNat = 0 ∨ 4 ≤ s.sdState.toNat ∧ s.sdState.toNat ≤ 8) :
      ProcessReply b s {} := .quiet (by omega) (not_syncMismatch_of_lt (by omega))
  cases h with
  | syncFirst hs | syncDiscard hs | statusDrop hs | statusAccept hs | command hs | length hs | payload hs
  | cksum1 hs => exact ⟨_, rfl, hquiet (by simp [hs])⟩
  | syncNext h1 h3 hb => exact ⟨_, rfl, .quiet (by omega) fun ⟨_, _, hne⟩ => hne hb⟩
  | syncMismatch h1 h3 hb => exact ⟨_, rfl, .mismatch ⟨h1, h3, hb⟩⟩
  | cksum2 hs hc fr => exact ⟨_, rfl, .frame hs fr⟩
  | unexpected hs => exact ⟨_, rfl, .unexpected hs⟩

theorem ProcessReply.err_eq {b : Byte} {s : State} {r : Response} (h : ProcessReply b s r) :
    r.err = .none := by
  cases h <;> rfl

theorem ProcessReply.frameValid_iff {b : Byte} {s : State} {r : Response} (h : ProcessReply b s r) :
    r.frameValid = true ↔ s.sdState = 9 := by
  cases h with
  | quiet hs => exact iff_of_false Bool.false_ne_true (by rintro h9; simp [h9] at hs)
  | frame hs => exact iff_of_true rfl hs
  | mismatch hb => exact iff_of_false Bool.false_ne_true (by rintro h9; simp [SyncMismatch, h9] at hb)
  | unexpected hs => exact iff_of_false Bool.false_ne_true (by rintro h9; simp [h9] at hs)

theorem ProcessReply.diag_eq_none {b : Byte} {s : State} {r : Response} (h : ProcessReply b s r)
    (hr : r.frameValid = true) : r.diag = .none := by
  cases h with
  | frame => rfl
  | quiet | mismatch | unexpected => cases hr

theorem ProcessReply.syncMismatch_iff {b : Byte} {s : State} {r : Response} (h : ProcessReply b s r) :
    r.diag = .syncMismatch ↔ SyncMismatch b s := by
  cases h with
  | quiet hs hb => exact iff_of_false nofun hb
  | frame hs => exact iff_of_false nofun (not_syncMismatch_of_lt (by simp [hs]))
  | mismatch hb => exact iff_of_true rfl hb
  | unexpected hs => exact iff_of_false nofun (not_syncMismatch_of_lt (by omega))

theorem ProcessReply.unexpectedState_iff {b : Byte} {s : State} {r : Response} (h : ProcessReply b s r) :
    r.diag = .unexpectedState ↔ 10 ≤ s.sdState.toNat := by
  cases h with
  | quiet hs => exact iff_of_false nofun (by omega)
  | frame hs => exact iff_of_false nofun (by simp [hs])
  | mismatch hb => exact iff_of_false nofun (by omega)
  | unexpected hs => exact iff_of_true rfl hs

theorem ProcessReply.diagState_eq {b : Byte} {s : State} {r : Response} (h : ProcessReply b s r) :
    r.diagState = if r.diag = .none then 0 else s.sdState := by
  cases h <;> rfl

/-- Settles O45: no command stops in a state of the invariant, and no reply has an error. -/
theorem processAlwaysCompletes : Obligations.ProcessAlwaysCompletes := by
  intro s b hi
  obtain ⟨t, h⟩ := exists_exec_of_inv (.sdProcess b) hi
  obtain ⟨r, hr, hreply⟩ := (exec_sdProcess_iff.1 h).reply
  exact ⟨t, r, h, hr, hreply.err_eq⟩

/-- State 9 has one arm, which resets. -/
theorem ProcessStep.sdState_eq_zero {b : Byte} {s t : State} (h : ProcessStep b s t)
    (h9 : s.sdState = 9) : t.sdState = 0 := by
  cases h with
  | syncMismatch | statusDrop | cksum2 | unexpected => rfl
  | _ => simp_all

/-- Settles O46: the reply with a Frame is the one of state 9. -/
theorem frameExactlyOnTheLastByte : Obligations.FrameExactlyOnTheLastByte := by
  intro s t b h
  have hp := exec_sdProcess_iff.1 h
  obtain ⟨r, hr, hreply⟩ := hp.reply
  exact ⟨r, hr, hreply.frameValid_iff, fun hv => hp.sdState_eq_zero (hreply.frameValid_iff.1 hv),
    fun ⟨hv, hdiag⟩ => hdiag (hreply.diag_eq_none hv)⟩

/-- No command without side effects raises a diagnostic. -/
theorem pureReply_diag (s : State) (i : Instr) : (pureReply s i).diag = .none := by
  cases i with
  | verify buf => rw [pureReply]; split <;> rfl
  | decode buf => rw [pureReply]; split <;> rfl
  | _ => rfl

theorem exec_diag_eq_none {i : Instr} {s t : State} (hi : ∀ b, i ≠ .sdProcess b)
    (h : exec i s = .next t) : ∃ r, t.resp = some r ∧ r.diag = .none := by
  obtain hp | ⟨b, rfl⟩ | rfl | rfl | ⟨b, rfl⟩ := instr_classes i
  · rw [exec_pure hp] at h
    cases h
    exact ⟨_, rfl, pureReply_diag s i⟩
  · exact absurd rfl (hi b)
  all_goals
    cases h
    exact ⟨_, rfl, rfl⟩

/-- Settles O47: each of the four replies, and the commands that give none of them. -/
theorem diagnosticsExactly : Obligations.DiagnosticsExactly := by
  refine ⟨fun s t b h => ?_, fun i s t hi h => exec_diag_eq_none hi h⟩
  obtain ⟨r, hr, hreply⟩ := (exec_sdProcess_iff.1 h).reply
  exact ⟨r, hr, hreply.err_eq, hreply.syncMismatch_iff, hreply.unexpectedState_iff, hreply.diagState_eq⟩

/-! ## SD.RESET and SD.STATE (R190, R191, R193) -/

/-- Settles O48: the word is the encoding, and the meaning is the reset. -/
theorem sdResetAbandonsTheFrame : Obligations.SdResetAbandonsTheFrame :=
  ⟨decode_encode .sdReset, exec_sdReset_eq, fun _ _ h => exec_sdReset_idempotent h⟩

/-- Settles O49: the word is the encoding, and the reply is `pureReply`. -/
theorem sdStateReadsTheRegisters : Obligations.SdStateReadsTheRegisters :=
  ⟨decode_encode .sdState, fun s => exec_pure rfl s⟩

/-- SD.PROCESS does not read the last response: every arm ends by overwriting it. -/
theorem exec_sdProcess_with_resp (b : Byte) (s : State) (r : Option Response) :
    exec (.sdProcess b) { s with resp := r } = exec (.sdProcess b) s := rfl

/-- The responses to a stream depend neither on `CRC` nor on the last response. -/
theorem collect_feedInputs_congr {bs : List Byte} {s u : State} {rs : List Response} (c : Word)
    (r : Option Response) (hin : s.inputs = feedInputs bs) (h : collect bs.length s = some (rs, u)) :
    ∃ u', collect bs.length { s with crc := c, resp := r } = some (rs, u') := by
  induction bs generalizing s r rs with
  | nil =>
    cases h
    exact ⟨_, rfl⟩
  | cons b bs ih =>
    obtain ⟨t, rs', hs, hrun, rfl⟩ := collect_succ_iff.1 h
    rw [step_ofInstr hin rfl] at hs
    obtain ⟨-, hin'⟩ := exec_params_inputs hs
    obtain ⟨u', hrun'⟩ := ih t.resp hin' hrun
    have hstep : step { s with crc := c, resp := r } = .next { t with crc := c } := by
      rw [step_ofInstr (s := { s with crc := c, resp := r }) hin rfl]
      exact (exec_sdProcess_with_resp b _ r).trans (exec_with_crc c rfl nofun hs)
    exact ⟨u', collect_succ_iff.2 ⟨_, rs', hstep, hrun', rfl⟩⟩

/-- Settles O51: the two resets differ in `CRC` and in the response they leave. -/
theorem sdResetActsAsBlockReset : Obligations.SdResetActsAsBlockReset := by
  intro s t u bs ht hu
  rw [exec_sdReset_eq] at ht
  rw [step_of_blockReset rfl] at hu
  cases ht
  cases hu
  ext rs
  simp only [Option.map_eq_some_iff, Prod.exists, exists_and_right, exists_eq_right]
  constructor
  · rintro ⟨v, hv⟩
    exact collect_feedInputs_congr Config.crcInit none rfl hv
  · rintro ⟨v, hv⟩
    exact collect_feedInputs_congr s.crc (some {}) rfl hv

end Sys2Proof.Machine
end

section

namespace Sys2Proof.Machine

/-! ## A response with an error carries nothing else (R221) -/

/-- Only VERIFY and DECODE have an error reply, each that of a framing error. -/
theorem pureReply_eq_of_err {s : State} {i : Instr} (he : (pureReply s i).err ≠ .none) :
    pureReply s i = { err := (pureReply s i).err } := by
  cases i with
  | verify buf =>
    cases hv : verifyBuffer buf with
    | error e => simp only [pureReply, hv]
    | ok r =>
      rw [pureReply, hv] at he
      exact absurd rfl he
  | decode buf =>
    cases hd : decodeFrame buf with
    | error e => simp only [pureReply, hd]
    | ok fr =>
      rw [pureReply, hd] at he
      exact absurd rfl he
  | _ => exact absurd rfl he

/-- Of the commands that write state none has an error reply; the others write only their reply. -/
theorem exec_eq_of_err {i : Instr} {s t : State} {r : Response} (h : exec i s = .next t)
    (hr : t.resp = some r) (he : r.err ≠ .none) : t = { s with resp := some { err := r.err } } := by
  obtain hp | ⟨b, rfl⟩ | rfl | rfl | ⟨b, rfl⟩ := instr_classes i
  · rw [exec_pure hp] at h
    cases h
    cases hr
    rw [← pureReply_eq_of_err he]
  · obtain ⟨r', hr', hreply⟩ := (exec_sdProcess_iff.1 h).reply
    cases hr'.symm.trans hr
    exact absurd hreply.err_eq he
  all_goals
    cases h
    cases hr
    exact absurd rfl he

/-- An illegal command has no other field in its reply, and a legal one is run. -/
theorem runCommand_eq_of_err {w : Word} {o : Operand} {s t : State} {r : Response}
    (h : runCommand w o s = .next t) (hr : t.resp = some r) (he : r.err ≠ .none) :
    t = { s with resp := some { err := r.err } } := by
  obtain ⟨-, ⟨i, -, hi⟩ | ⟨-, rfl⟩⟩ := runCommand_next_cases h
  · exact exec_eq_of_err hi hr he
  · cases hr
    rfl

/-- Settles O58: the input taken is a command, for the block reset gives no response. -/
theorem errorsWriteNoState : Obligations.ErrorsWriteNoState := by
  intro s t r hin h hr he
  obtain ⟨hnil, -⟩ | ⟨rest, -, rfl⟩ | ⟨w, o, rest, hcmd, hrun⟩ := step_next_cases h
  · exact absurd hnil hin
  · cases hr
  · rw [hcmd]
    exact runCommand_eq_of_err hrun hr he

end Sys2Proof.Machine
end

section

namespace Sys2Proof.Machine

/-! ## Frames dropped at their status byte (R179, R261) -/

/-- Under either placement of the replacement bit 2 is packed and bit 6 is not, so the byte is that of an
illegal request. -/
theorem illegalRequest_packStatus_of_set (p : Config.Params) {f : Byte} (h2 : f.getLsbD 2 = true)
    (force : Bool) : illegalRequest (packStatus p f force) = true := by
  rw [illegalRequestBits]
  cases hp : p.cnvOverwrite with
  | all => rw [packStatus_of_all hp h2]; decide
  | inOrder => rw [packStatus_of_inOrder hp h2]; simp [-BitVec.getLsbD_eq_getElem]

/-- The status byte of a frame encoded with `checksum_not_valid`, and of a request with an error flag, is
an illegal request. -/
theorem illegalRequest_packStatus_of_dropped (p : Config.Params) {f : Byte} (force : Bool)
    (hdrop : f.getLsbD 2 = true ∨ (f.getLsbD 6 = false ∧ f &&& 0x1F ≠ 0)) :
    illegalRequest (packStatus p f force) = true := by
  cases h2 : f.getLsbD 2 with
  | true => exact illegalRequest_packStatus_of_set p h2 force
  | false =>
    obtain ⟨h6, hlow⟩ := hdrop.resolve_left (by rw [h2]; decide)
    have hmask : f &&& 0x1B = f &&& 0x1F := by
      apply BitVec.eq_of_getLsbD_eq
      intro i hi
      interval_cases i <;> simp [-BitVec.getLsbD_eq_getElem, h2]
    rw [illegalRequest_packStatus p h2, hmask, h6, decide_eq_true hlow]
    rfl

/-- The first five bytes of an encoded frame are the preamble and the status byte (R82). -/
theorem take_five_encodeFrame (p : Config.Params) (fr : FrameOperand) (force : Bool) :
    (encodeFrame p fr force).take 5 = Config.sync ++ [packStatus p fr.flags force] := rfl

/-- R31 reads the state off a count of at most 4. -/
theorem SyncTable.sdState_eq_sdCnt {s : State} (h : SyncTable s) (h4 : s.sdCnt.toNat ≤ 4) :
    s.sdState.toNat = s.sdCnt.toNat := by
  cases h.row with
  | rest hs hc => rw [hs, hc]; rfl
  | sync h1 h4' hc => exact hc.symm
  | command hs hc => simp [hc] at h4
  | length hs hc => simp [hc] at h4
  | payload | cksum1 | cksum2 => omega

/-- While the held bytes begin the preamble, the state is the number of those bytes. -/
theorem sdState_eq_length_accBuffer {s : State} {pre : List Byte} (hi : Inv s)
    (hacc : accBuffer s ++ pre = Config.sync) : s.sdState.toNat = (accBuffer s).length := by
  have hlen : (accBuffer s).length + pre.length = 4 := by rw [← List.length_append, hacc]; rfl
  have hheld := length_accBuffer_of_le (sdCnt_lt_of_inv hi).le
  obtain ⟨htab, -, -⟩ := hi
  rw [hheld]
  exact htab.sdState_eq_sdCnt (by omega)

/-- From a state that holds the beginning of the preamble, feeding the rest of it and the status byte of an
illegal request gives empty responses and leaves the unit at rest. -/
theorem collect_feedInputs_of_illegalRequest {b : Byte} {pre : List Byte} {s : State} (hi : Inv s)
    (hacc : accBuffer s ++ pre = Config.sync) (hb : illegalRequest b = true)
    (hin : s.inputs = feedInputs (pre ++ [b])) :
    ∃ t, collect (pre.length + 1) s = some (List.replicate (pre.length + 1) ({} : Response), t) ∧
      AtRest t ∧ t.inputs = [] := by
  induction pre generalizing s with
  | nil =>
    have hstate := sdState_eq_length_accBuffer hi hacc
    rw [← List.append_nil (accBuffer s), hacc] at hstate
    have hs : s.sdState = 4 := BitVec.eq_of_toNat_eq hstate
    have hdrop := ProcessStep.statusDrop (s := { s with inputs := [] }) hs hb
    exact ⟨_, collect_succ_iff.2 ⟨_, [], step_feedInputs hin hdrop, rfl, rfl⟩, ⟨rfl, rfl, rfl, rfl⟩, rfl⟩
  | cons c pre ih =>
    have hnext : Config.sync[s.sdState.toNat]? = some c := by
      rw [sdState_eq_length_accBuffer hi hacc, ← hacc]
      simp
    have h9 : s.sdState ≠ 9 := fun h9 => by simp [h9, Config.sync] at hnext
    obtain ⟨t, ht, hresp, htacc⟩ := Appends.exists_processStep
      (s := { s with inputs := feedInputs (pre ++ [b]) }) (.inl hnext) h9 (sdCnt_lt_of_inv hi)
    obtain ⟨-, -, htin⟩ := ht.frame
    have hsync : accBuffer t ++ pre = Config.sync := by
      rw [htacc, List.append_assoc]
      exact hacc
    obtain ⟨u, hrun, hrest⟩ := ih (ht.inv hi) hsync htin
    refine ⟨u, collect_succ_iff.2 ⟨t, _, step_feedInputs hin ht, hrun, ?_⟩, hrest⟩
    rw [hresp]
    rfl

/-- Settles O53: the fifth byte is the status byte, which state 4 drops. -/
theorem droppedFramesLeaveNoTrace : Obligations.DroppedFramesLeaveNoTrace := by
  intro s p fr force hrest hdrop hin
  have ⟨_, hcnt, _⟩ := hrest
  have hempty : accBuffer s = [] := by simp [accBuffer, hcnt]
  rw [take_five_encodeFrame] at hin
  exact collect_feedInputs_of_illegalRequest (inv_of_atRest hrest) (by rw [hempty]; rfl)
    (illegalRequest_packStatus_of_dropped p force hdrop) hin

/-! ## The block reset (R250) -/

/-- Settles O11: the values are those of the state after power-on and of `blockReset`. -/
theorem blockResetLeavesSpecValues : Obligations.BlockResetLeavesSpecValues :=
  ⟨⟨rfl, rfl, rfl, rfl, rfl, rfl⟩, fun _ _ hin =>
    ⟨_, step_of_blockReset hin, rfl, rfl, rfl, rfl, rfl, rfl, rfl⟩⟩

end Sys2Proof.Machine
end
